-- ==== Sys2Proof/Word.lean ====
section
/-! DEFINITION. The byte, the only word of this block: every buffer is a finite sequence of bytes
(spec 00_scope R11, R12; 20_memory R50). -/

namespace Sys2Proof

/-- A byte is 8 bits, bit 0 the least significant (R11). -/
abbrev Byte := BitVec 8

/-- A finite byte sequence; the byte at offset `k` is entry `k` (R12). The length is unbounded: `LEN_W` is left
open by the spec and unbounded numbers are allowed (R10, D13). -/
abbrev Bytes := List Byte

end Sys2Proof
end

