-- ==== Sys2Proof/Syntax.lean ====
section
/-! DEFINITION. The instructions: one constructor for each row of spec/opcode_table.json, and the port an instruction's
bits arrive at (the table's column "format"). -/

namespace Sys2Proof

/-- One constructor per row of the opcode table. The first three are the operations of the block (R2, R3). The other five
are rows of its data formats, which an entry point of the block reads from the bytes it is handed: a header as DECODE
parses it (R86) and a first payload byte as DISPATCH classifies it (R99). DEDUCED: log entry 1 says how
those five are run. -/
inductive Instr where
  /-- DECODE (R120), command code 0. -/
  | decode
  /-- ENCODE (R140), command code 1. -/
  | encode
  /-- DISPATCH (R160), command code 2. -/
  | dispatch
  /-- GTP2C.H8 (R86): the 8-byte header, T clear. -/
  | gtp2cH8 (piggybackingFlag : Bool) (reserved : BitVec 3) (messageType : Byte) (messageLength : BitVec 16)
      (sequenceNumber : BitVec 24) (spare : Byte)
  /-- GTP2C.H12 (R86): the 12-byte header, T set. -/
  | gtp2cH12 (piggybackingFlag : Bool) (reserved : BitVec 3) (messageType : Byte) (messageLength : BitVec 16)
      (teid : BitVec 32) (sequenceNumber : BitVec 24) (spare : Byte)
  /-- NEXT.IPV4 (R99): a first payload byte whose top nibble is 4; `low` is bits 3:0, ignored. -/
  | nextIpv4 (low : BitVec 4)
  /-- NEXT.IPV6 (R99): a first payload byte whose top nibble is 6. -/
  | nextIpv6 (low : BitVec 4)
  /-- NEXT.PPP (R99): a first payload byte whose top nibble is neither 4 nor 6. -/
  | nextPpp (nibble low : BitVec 4)
deriving DecidableEq, Repr

/-- Where an instruction's bits arrive. The three encodings of spec 30_encoding are separate: the same byte `0x40` is the
first byte of an H8 header at one port and an IPv4 payload at another. -/
inductive Port where
  /-- The command input `op` (R38, R100). -/
  | command
  /-- The decode entry point, which is handed bytes tagged as GTPv2-C (R165, R169). -/
  | header
  /-- The dispatcher's entry point, which is handed payload bytes (R160, R168). -/
  | payload
deriving DecidableEq, Repr

/-- The port a row of the table belongs to. -/
def Instr.port : Instr → Port
  | .decode => .command
  | .encode => .command
  | .dispatch => .command
  | .gtp2cH8 _ _ _ _ _ _ => .header
  | .gtp2cH12 _ _ _ _ _ _ _ => .header
  | .nextIpv4 _ => .payload
  | .nextIpv6 _ => .payload
  | .nextPpp _ _ => .payload

end Sys2Proof
end

