-- ==== Sys2Proof/WellFormed.lean ====
section
/-! DEFINITION. Which terms of `Instr` an encoding can carry. Every field has the exact width the spec gives it (R9, R28,
U12), so the one condition that the types leave is that of the fallback row. -/

namespace Sys2Proof

/-- NEXT.PPP has the lowest priority: it stands for the nibbles that neither NEXT.IPV4 nor NEXT.IPV6 matches (R99). -/
def Instr.wellFormed : Instr → Bool
  | .decode => true
  | .encode => true
  | .dispatch => true
  | .gtp2cH8 _ _ _ _ _ _ => true
  | .gtp2cH12 _ _ _ _ _ _ _ => true
  | .nextIpv4 _ => true
  | .nextIpv6 _ => true
  | .nextPpp nibble _ => nibble != 4 && nibble != 6

end Sys2Proof
end

