-- ==== Sys2Proof/Decode.lean ====
section
/-! DEFINITION. The decoder from bytes to instructions, one function per port (spec 30_encoding R80 to R102), the encoder
written from the same format tables (R86), and the reading of one opcode-table word. -/

namespace Sys2Proof

/-- Why bytes are no instruction of a port. -/
inductive DecodeReject where
  /-- The command port got no byte. -/
  | noCommand
  /-- A byte that holds more than the 2 bits of a command (R100). -/
  | notACommand
  /-- The reserved command code 3 (R100, U8). -/
  | reservedCommand
  /-- Fewer bytes than the format's length (R97: too short, or H12 cut short). -/
  | truncatedHeader
  /-- Bits 7:5 of byte 0 are not 010 (R94, R97). -/
  | unsupportedVersion
  /-- No first payload byte (R99, R161). -/
  | emptyPayload
deriving DecidableEq, Repr

/-- The command codes (R100). -/
def decodeCommand (op : BitVec 2) : Except DecodeReject Instr :=
  if op = 0 then .ok .decode
  else if op = 1 then .ok .encode
  else if op = 2 then .ok .dispatch
  else .error .reservedCommand

/-- A command carried in one byte, its 2 bits lowest and the rest zero (R100). DESIGN CHOICE, log entry 18. -/
def decodeCommandByte : Bytes → Except DecodeReject (Instr × Bytes)
  | [] => .error .noCommand
  | b :: rest =>
    if b.extractLsb' 2 6 = 0 then
      match decodeCommand (b.extractLsb' 0 2) with
      | .ok i => .ok (i, rest)
      | .error r => .error r
    else .error .notACommand

/-- The header formats, told apart by byte 0 alone with the masks of R87, after the length tests of R97 in their order
(D5); the fields are joined from bytes as R89 writes them. The second component is what follows the header. -/
def decodeHeader : Bytes → Except DecodeReject (Instr × Bytes)
  | b0 :: b1 :: b2 :: b3 :: b4 :: b5 :: b6 :: b7 :: rest =>
    if b0 &&& 0xE0 ≠ 0x40 then .error .unsupportedVersion
    else if b0 &&& 0xE8 = 0x40 then
      .ok (.gtp2cH8 (b0.getLsbD 4) (b0.extractLsb' 0 3) b1 (b2 ++ b3) (b4 ++ b5 ++ b6) b7, rest)
    else
      match rest with
      | b8 :: b9 :: b10 :: b11 :: rest =>
        .ok (.gtp2cH12 (b0.getLsbD 4) (b0.extractLsb' 0 3) b1 (b2 ++ b3) (b4 ++ b5 ++ b6 ++ b7) (b8 ++ b9 ++ b10) b11,
          rest)
      | _ => .error .truncatedHeader
  | _ => .error .truncatedHeader

/-- The class of a first payload byte, with the masks of R99; the fallback applies when neither matches. -/
def decodePayloadByte (b : Byte) : Instr :=
  if b &&& 0xF0 = 0x40 then .nextIpv4 (b.extractLsb' 0 4)
  else if b &&& 0xF0 = 0x60 then .nextIpv6 (b.extractLsb' 0 4)
  else .nextPpp (b.extractLsb' 4 4) (b.extractLsb' 0 4)

/-- The payload port: total on non-empty payloads (R99, R162). -/
def decodePayload : Bytes → Except DecodeReject (Instr × Bytes)
  | [] => .error .emptyPayload
  | b :: rest => .ok (decodePayloadByte b, rest)

/-- The decoder: the instruction at the front of the bytes that arrived at a port, and the bytes behind it. -/
def decodeAt : Port → Bytes → Except DecodeReject (Instr × Bytes)
  | .command, bytes => decodeCommandByte bytes
  | .header, bytes => decodeHeader bytes
  | .payload, bytes => decodePayload bytes

/-- Byte 0 of a header with `version` 2 from its fields, top bits first (R86). -/
def headerByte0 (piggybackingFlag teidFlag : Bool) (reserved : BitVec 3) : Byte :=
  (2 : BitVec 3) ++ BitVec.ofBool piggybackingFlag ++ BitVec.ofBool teidFlag ++ reserved

/-- The two bytes of `messageLength`, high half first (R83). -/
def halfBytes (v : BitVec 16) : Bytes := [v.extractLsb' 8 8, v.extractLsb' 0 8]

/-- The three bytes of `sequenceNumber`, most significant first (R85). -/
def sequenceBytes (v : BitVec 24) : Bytes := [v.extractLsb' 16 8, v.extractLsb' 8 8, v.extractLsb' 0 8]

/-- The four bytes of `teid`, most significant first (R84). -/
def teidBytes (v : BitVec 32) : Bytes :=
  [v.extractLsb' 24 8, v.extractLsb' 16 8, v.extractLsb' 8 8, v.extractLsb' 0 8]

/-- The bytes of an instruction, from the format tables of R86, the codes of R100 and the nibbles of R99. -/
def encode : Instr → Bytes
  | .decode => [0x00]
  | .encode => [0x01]
  | .dispatch => [0x02]
  | .gtp2cH8 p r mt ml seq z => headerByte0 p false r :: mt :: (halfBytes ml ++ sequenceBytes seq ++ [z])
  | .gtp2cH12 p r mt ml tid seq z =>
    headerByte0 p true r :: mt :: (halfBytes ml ++ teidBytes tid ++ sequenceBytes seq ++ [z])
  | .nextIpv4 low => [(4 : BitVec 4) ++ low]
  | .nextIpv6 low => [(6 : BitVec 4) ++ low]
  | .nextPpp nibble low => [nibble ++ low]

/-- The longest instruction is an H12 header (R80). -/
def longestInstr : Nat := 12

/-- `n` bytes of a table word, bit 0 being the least significant bit of the first byte: the least significant byte of a wider word
is header byte 0, where R86 numbers a whole header the other way round (byte 0 topmost) and the table's masks cover byte 0 only.
DESIGN CHOICE, log entry 9. -/
def tableBytes : Nat → Nat → Bytes
  | 0, _ => []
  | n + 1, w => BitVec.ofNat 8 w :: tableBytes n (w / 256)

/-- A table word's bits, zero above `nbits`. -/
def tableWord (nbits w : Nat) : Nat := w % 2 ^ nbits

/-- The bytes of a table word, as long as the longest instruction or longer. -/
def tableWordBytes (nbits w : Nat) : Bytes :=
  tableBytes (max longestInstr ((nbits + 7) / 8)) (tableWord nbits w)

/-- The command code of a table word (R100). -/
def tableCommand (nbits w : Nat) : BitVec 2 := BitVec.ofNat 2 (tableWord nbits w)

/-- The port of a bare table word. The encodings of the three ports overlap, so the word alone does not tell the port;
the rows are tried in the table's order: one byte below 4 is a command, then a first byte with version 2 is a header, and
anything else is a payload byte. DESIGN CHOICE, log entry 9. -/
def tablePort (nbits w : Nat) : Port :=
  if nbits ≤ 8 ∧ tableWord nbits w < 4 then .command
  else if BitVec.ofNat 8 (tableWord nbits w) &&& 0xE0 = 0x40 then .header
  else .payload

/-- The instruction the decoder reads from an opcode-table word. -/
def decodeTableWord (nbits w : Nat) : Option Instr :=
  match decodeAt (tablePort nbits w) (tableWordBytes nbits w) with
  | .ok (i, _) => some i
  | .error _ => none

end Sys2Proof
end

