-- ==== Sys2Proof/Config.lean ====
section
/-! DEFINITION. What an implementation fixes: the parameters of spec 00_scope R9 as constants, the open parameters of
R10 that are opaque tags of the framework, and the one free value of the model (the initial content of a prepend window). -/

namespace Sys2Proof.Config

/-- `VERSION_SUPPORTED` (R9). -/
@[simp] abbrev versionSupported : BitVec 3 := 2

/-- `HLEN_NO_TEID` (R9), the length of an H8 header. -/
@[simp] abbrev hlenNoTeid : Nat := 8

/-- `HLEN_TEID` (R9), the length of an H12 header. -/
@[simp] abbrev hlenTeid : Nat := 12

/-- `MIN_DECODE_LEN` (R9). -/
@[simp] abbrev minDecodeLen : Nat := 8

/-- `NIBBLE_IPV4` (R9). -/
@[simp] abbrev nibbleIpv4 : BitVec 4 := 4

/-- `NIBBLE_IPV6` (R9). -/
@[simp] abbrev nibbleIpv6 : BitVec 4 := 6

/-- A layer-type tag of the surrounding framework; the spec gives no value and no law for any of them (R10, D4, D26). -/
structure LayerTag where
  id : Nat
deriving DecidableEq, Repr, Inhabited

/-- `LAYER_TYPE_GTPV2C`, OPEN in the spec (R10, R43, D26). DESIGN CHOICE: opaque, log entry 8. -/
opaque layerTypeGtpv2c : LayerTag

/-- `LAYER_TYPE_IPV4`, OPEN in the spec (R10, R102, D4). DESIGN CHOICE: opaque, log entry 8. -/
opaque layerTypeIpv4 : LayerTag

/-- `LAYER_TYPE_IPV6`, OPEN in the spec (R10, R102, D4). DESIGN CHOICE: opaque, log entry 8. -/
opaque layerTypeIpv6 : LayerTag

/-- `LAYER_TYPE_PPP`, OPEN in the spec (R10, R102, D4). DESIGN CHOICE: opaque, log entry 8. -/
opaque layerTypePpp : LayerTag

/-- FREE VALUE. The initial content of a prepend window: the byte at the given offset of the window that the given
request (counted from 0) obtained. The spec leaves it unspecified (R142, U15). DESIGN CHOICE in its form, log
entry 7. -/
opaque freshByte : Nat → Nat → Byte

end Sys2Proof.Config
end

