-- ==== Sys2Proof/Machine/State.lean ====
section
/-! DEFINITION. The machine's state as plain data (spec 10_state): the caller's buffers, the operands of a call, the
Header record and the result record, the calls the caller has yet to make, and why a step can stop. -/

namespace Sys2Proof.Machine

open Sys2Proof.Config (LayerTag)

/-- A non-owning range of byte offsets over a buffer (R29 to R31). -/
structure View where
  start : Nat
  len : Nat
deriving DecidableEq, Repr

/-- The Header record: seven value fields and two views (R21). -/
structure Header where
  /-- 3 bits (R22). -/
  version : BitVec 3
  /-- The flag P (R23). -/
  piggybackingFlag : Bool
  /-- The flag T, the one discriminant of the layout (R24). -/
  teidFlag : Bool
  /-- 8 bits, opaque to the block (R25). -/
  messageType : Byte
  /-- 16 bits, opaque to the block (R26). -/
  messageLength : BitVec 16
  /-- 32 bits; zero when T is clear (R27). -/
  teid : BitVec 32
  /-- Exactly 24 bits (R28). -/
  sequenceNumber : BitVec 24
  /-- The header bytes as consumed (R29). -/
  contents : View
  /-- The bytes after the header, to the end of the input (R30). -/
  payload : View
deriving DecidableEq, Repr

/-- The members of a Header, to name one in a refusal. -/
inductive HeaderField where
  | version | piggybackingFlag | teidFlag | messageType | messageLength | teid | sequenceNumber
deriving DecidableEq, Repr

/-- The Header a caller hands to ENCODE. Each member is set to a value or was never set: a field the caller never set has
no value (R214, U16), which is the spec's own state of an operand and no missing reset value of a register. DEDUCED, log
entry 6. -/
structure HeaderOperand where
  version : Option (BitVec 3)
  piggybackingFlag : Option Bool
  teidFlag : Option Bool
  messageType : Option Byte
  messageLength : Option (BitVec 16)
  teid : Option (BitVec 32)
  sequenceNumber : Option (BitVec 24)
  contents : Option View
  payload : Option View
deriving DecidableEq, Repr

/-- The closed list of error kinds (R180). -/
inductive ErrorKind where
  /-- DECODE: the buffer is shorter than the variant's required length (R181). -/
  | truncatedHeader
  /-- DECODE: the version field is not 2 (R182). -/
  | unsupportedVersion
  /-- DISPATCH: zero-length payload (R183). -/
  | emptyPayload
  /-- ENCODE: `prependBytes` failed (R184). -/
  | bufferAllocationFailure
deriving DecidableEq, Repr

/-- The status `err` of the operation just performed (R39). -/
inductive Status where
  | ok
  | error (e : ErrorKind)
deriving DecidableEq, Repr

/-- The result of DISPATCH (R42). -/
inductive NextProtocol where
  | ipv4 | ipv6 | ppp
deriving DecidableEq, Repr

/-- The three operations (R2). -/
inductive Op where
  | decode | encode | dispatch
deriving DecidableEq, Repr

/-- Where the bytes that DISPATCH is given came from, which says whether they may still be used (R29, R67, R198, R215).
DEDUCED, log entry 14. -/
inductive PayloadSource where
  /-- Bytes of the caller's own, which depend on no other buffer (D24: any byte sequence). -/
  | callerBytes
  /-- The payload view of a decoded Header over the input buffer of this number. -/
  | viewOf (buffer : Nat)
deriving DecidableEq, Repr

/-- What the caller may read after an operation: an error or one full result, never a record with some fields filled
(R188). -/
inductive Result where
  | decoded (h : Header) (consumedLength : Nat)
  | encoded (window : Bytes)
  | dispatched (next : NextProtocol)
  | failed (e : ErrorKind)
deriving DecidableEq, Repr

/-- What the caller does at the block's boundary, one call at a time (R63, R165, R168, R214). The block chooses none of
them (R36). -/
inductive Call where
  /-- Run the operation with this command code on the operands in place (R38, R100). -/
  | command (op : BitVec 2)
  /-- Hand the input buffer to the decode entry point (R165 step 1, R169). -/
  | decodeEntry
  /-- Hand the payload operand to the dispatcher's entry point (R160). -/
  | dispatchEntry
  /-- `nextLayerType()`: DISPATCH on the payload view of the Header the caller holds (R168 (c)). -/
  | nextLayerType
  /-- The framework's chain: DECODE, and on success `nextLayerType()` (R165, R104). -/
  | decodeChain
  /-- The caller provides an input buffer (R214). The ones before stay as they are (R63, 95_test_vectors P4). -/
  | giveInput (data : Bytes)
  /-- The caller changes, reuses or frees the memory of the input buffer in place: these bytes are what it now holds (none, if it
  was freed). The views over what it held are dead (R67, R215). -/
  | overwriteInput (data : Bytes)
  /-- The caller changes, reuses or frees an input buffer it provided before, by its number. The views over it are dead (R67,
  R215). -/
  | releaseBuffer (buffer : Nat)
  /-- The caller gives the bytes of the serialize buffer as the input buffer (R68). -/
  | giveSerializedAsInput
  /-- The caller provides a serialize buffer with this content (R214). -/
  | giveSerializeBuffer (content : Bytes)
  /-- The caller constructs the Header operand of ENCODE (R214). -/
  | giveHeader (h : HeaderOperand)
  /-- The caller passes the Header it got from DECODE to ENCODE (R219). -/
  | giveDecodedHeader
  /-- The caller passes these bytes to DISPATCH (R214). -/
  | givePayload (p : Bytes)
  /-- The caller passes the payload view of the Header it holds to DISPATCH (R164). -/
  | givePayloadView
  /-- The environment settles whether a prepend will succeed (R142, D20). -/
  | answerPrepend (ok : Bool)
  /-- Reset, between operations (R210). DEDUCED, log entry 20. -/
  | resetBlock
deriving DecidableEq, Repr

/-- The machine. Buffers are dense byte sequences (DESIGN CHOICE, log entry 12). INVENTORY.md lists each field with the rule
that names it and its value after reset. -/
structure State where
  /-- The model's own: the calls the caller has yet to make, oldest first. DESIGN CHOICE, log entry 2. -/
  calls : List Call
  /-- IB, the caller's input buffer (R44). -/
  ib : Bytes
  /-- The model's own: the number of the input buffer, counting the buffers the caller has provided. DESIGN CHOICE, log entry
  22. -/
  ibId : Nat
  /-- The input buffers the caller provided before and has neither changed nor freed since, with their numbers, the latest first
  (R63, R67). DEDUCED, log entry 22. -/
  earlier : List (Nat × Bytes)
  /-- SB, the serialize buffer (R45). -/
  sb : Bytes
  /-- The payload bytes DISPATCH is given (R160, R164). -/
  p : Bytes
  /-- The model's own: whose bytes `p` are, the caller's own or a view's over a buffer (R29, R67, R215). DEDUCED, log entry
  14. -/
  payloadSource : PayloadSource
  /-- The Header ENCODE is given (R140). -/
  operand : HeaderOperand
  /-- The environment's answer to a prepend request, `prepend_ok` (R48, R142). DEDUCED, log entry 5. -/
  prependOk : Bool
  /-- The model's own: the sizes of the prepend requests made so far, the latest first. DESIGN CHOICE, log entry 7. -/
  prependLog : List Nat
  /-- The Header output (R21). -/
  header : Header
  /-- `hdr_valid` (R40). -/
  hdrValid : Bool
  /-- `err` (R39). -/
  err : Status
  /-- `consumedLength` (R41). -/
  consumedLength : Nat
  /-- `next` (R42). -/
  next : NextProtocol
  /-- The byte sequence ENCODE returns, the window `W` (R140, C4). DEDUCED, log entry 19. -/
  window : Bytes
  /-- `layer_type` (R43). -/
  layerType : LayerTag
  /-- The model's own: the operation whose results the record holds, if any ran (R39, R40). DEDUCED, log entry 16. -/
  lastOp : Option Op
  /-- The caller's own copy of the last Header a DECODE returned (R165 steps 3 and 5, R168 (a)). DEDUCED, log
  entry 14. -/
  heldHeader : Option Header
  /-- The model's own: the number of the input buffer the held Header's views range over (R29, R31). DEDUCED, log entry 14. -/
  heldBuffer : Nat
deriving DecidableEq, Repr

/-- Why the machine stops with a fault. -/
inductive Fault where
  /-- An access outside its buffer, raised where a read or write of the pseudocode is not defined (R14). Safe: R60 says
  that no operation reaches one, and Certificates states it. -/
  | outOfBounds
deriving DecidableEq, Repr

/-- Why the model gives a step no meaning. -/
inductive Refusal where
  /-- An instruction without a meaning yet, by its mnemonic. Raised by `exec` alone. Safe. -/
  | notModelled (mnemonic : String)
  /-- The reserved command code 3 (R100, U8). Raised by the command port. Safe. -/
  | reservedCommand
  /-- ENCODE reads a Header field the caller never set (R214, U16). Safe. -/
  | headerFieldUnset (field : HeaderField)
  /-- The caller reads a decoded Header when no DECODE has returned one (R49, U13). Safe. -/
  | noHeaderHeld
  /-- A view is used after its buffer was changed, reused or freed: by the caller, to form an operand, or by DISPATCH and the
  payload rows, whose operand was formed from it before (R67, R198, R215, U5, D16). Safe. -/
  | staleView
deriving DecidableEq, Repr

/-- The Header output after reset. The spec leaves it unspecified and `hdr_valid` false; zeros. DESIGN CHOICE, log entry 3. -/
def Header.zeros : Header :=
  { version := 0, piggybackingFlag := false, teidFlag := false, messageType := 0, messageLength := 0, teid := 0,
    sequenceNumber := 0, contents := { start := 0, len := 0 }, payload := { start := 0, len := 0 } }

/-- A Header operand none of whose members the caller has set (R214). -/
def HeaderOperand.unset : HeaderOperand :=
  { version := none, piggybackingFlag := none, teidFlag := none, messageType := none, messageLength := none,
    teid := none, sequenceNumber := none, contents := none, payload := none }

/-- The machine right after reset (R49, R210): `hdr_valid` is false and `layer_type` is its constant; the spec leaves the
rest unspecified. DESIGN CHOICE, log entries 3, 4, 5, 14 and 22 name the values. -/
def State.reset : State :=
  { calls := [], ib := [], ibId := 0, earlier := [], sb := [], p := [], payloadSource := .callerBytes,
    operand := HeaderOperand.unset, prependOk := true, prependLog := [],
    header := Header.zeros, hdrValid := false, err := .ok, consumedLength := 0, next := .ipv4, window := [],
    layerType := Sys2Proof.Config.layerTypeGtpv2c, lastOp := none, heldHeader := none, heldBuffer := 0 }

end Sys2Proof.Machine
end

