-- ==== Sys2Proof/Machine/Codes.lean ====
section
/-! DEFINITION. The numeric codes of the block's own interface (spec 30_encoding R100 to R102). -/

namespace Sys2Proof.Machine

/-- The command code of an operation (R100). -/
def opCode : Op → BitVec 2
  | .decode => 0
  | .encode => 1
  | .dispatch => 2

/-- The status code of an error kind (R101, R180). -/
def errorCode : ErrorKind → BitVec 3
  | .truncatedHeader => 1
  | .unsupportedVersion => 2
  | .emptyPayload => 3
  | .bufferAllocationFailure => 4

/-- The 3-bit code of `err` (R101); 5 to 7 are never produced. -/
def statusCode : Status → BitVec 3
  | .ok => 0
  | .error e => errorCode e

/-- The 2-bit code of `next` (R102); 3 is never produced. -/
def nextCode : NextProtocol → BitVec 2
  | .ipv4 => 0
  | .ipv6 => 1
  | .ppp => 2

end Sys2Proof.Machine
end

