-- ==== Sys2Proof/Machine/Flags.lean ====
section
/-! DEFINITION. Byte 0 of a header: the version, the two flags P and T, the only flags of the block (R37), and the
reserved bits; read from the byte as DECODE does (R124, R89) and put into it as ENCODE does (R143, R90). -/

namespace Sys2Proof.Machine

/-- `version = b0[7:5]`. -/
def versionOf (b0 : Byte) : BitVec 3 := b0.extractLsb' 5 3

/-- `P = b0[4]`. -/
def piggybackOf (b0 : Byte) : Bool := b0.getLsbD 4

/-- `T = b0[3]`. -/
def teidFlagOf (b0 : Byte) : Bool := b0.getLsbD 3

/-- `b0[2:0]`, read and discarded by DECODE (R32). -/
def reservedOf (b0 : Byte) : BitVec 3 := b0.extractLsb' 0 3

/-- `(version << 5) | (P << 4) | (T << 3)`; nothing is put into bits 2:0. -/
def byte0Of (version : BitVec 3) (piggybackingFlag teidFlag : Bool) : Byte :=
  (version.setWidth 8 <<< 5) ||| ((BitVec.ofBool piggybackingFlag).setWidth 8 <<< 4)
    ||| ((BitVec.ofBool teidFlag).setWidth 8 <<< 3)

end Sys2Proof.Machine
end

