-- ==== Sys2Proof/Machine/Operands.lean ====
section
/-! DEFINITION. The operands: the two quantities that depend on T (R88), the Header operand of ENCODE and how its fields
are read, which Headers are valid (R34) and equal on the wire (R35), which bytes are canonical (R98), and the bytes of a
view (R29 to R31). -/

namespace Sys2Proof.Machine

/-- The header length, `8 + 4*T` (R88). -/
def headerLength (teidFlag : Bool) : Nat := 8 + 4 * teidFlag.toNat

/-- The offset of the sequence-number window, `4 + 4*T` (R88). -/
def windowOffset (teidFlag : Bool) : Nat := 4 + 4 * teidFlag.toNat

/-- A Header all of whose members are set, as an operand of ENCODE. -/
def operandOfHeader (h : Header) : HeaderOperand :=
  { version := some h.version, piggybackingFlag := some h.piggybackingFlag, teidFlag := some h.teidFlag,
    messageType := some h.messageType, messageLength := some h.messageLength, teid := some h.teid,
    sequenceNumber := some h.sequenceNumber, contents := some h.contents, payload := some h.payload }

/-- One member of a Header operand; a member never set has no value to read (R214). -/
def readField {α : Type} (field : HeaderField) : Option α → Except HeaderField α
  | some v => .ok v
  | none => .error field

/-- The values ENCODE writes. -/
structure EncodeFields where
  version : BitVec 3
  piggybackingFlag : Bool
  messageType : Byte
  messageLength : BitVec 16
  teid : BitVec 32
  sequenceNumber : BitVec 24
deriving DecidableEq, Repr

/-- ENCODE's reads of the Header operand after `teidFlag`, in the order of R140. `teid` is read only when T is set (R148);
else nothing of it is used. The views are not read (R149). -/
def readEncodeFields (h : HeaderOperand) (teidFlag : Bool) : Except HeaderField EncodeFields :=
  match readField .version h.version, readField .piggybackingFlag h.piggybackingFlag,
    readField .messageType h.messageType, readField .messageLength h.messageLength,
    (if teidFlag then readField .teid h.teid else .ok 0), readField .sequenceNumber h.sequenceNumber with
  | .ok v, .ok p, .ok mt, .ok ml, .ok tid, .ok seq =>
    .ok { version := v, piggybackingFlag := p, messageType := mt, messageLength := ml, teid := tid, sequenceNumber := seq }
  | .error f, _, _, _, _, _ => .error f
  | _, .error f, _, _, _, _ => .error f
  | _, _, .error f, _, _, _ => .error f
  | _, _, _, .error f, _, _ => .error f
  | _, _, _, _, .error f, _ => .error f
  | _, _, _, _, _, .error f => .error f

/-- A valid Header: `version` is 2; the widths hold by type (R34). -/
def validHeader (h : Header) : Bool := h.version == Sys2Proof.Config.versionSupported

/-- Equality on the wire-carried fields, `=w` (R35). -/
def wireEq (h k : Header) : Bool :=
  h.version == k.version && h.piggybackingFlag == k.piggybackingFlag && h.teidFlag == k.teidFlag &&
  h.messageType == k.messageType && h.messageLength == k.messageLength && h.sequenceNumber == k.sequenceNumber &&
  (!h.teidFlag || h.teid == k.teid)

/-- Canonical header bytes: the version is 2, the reserved bits and the spare byte are zero, and the length is the one
that T gives (R98). -/
def canonicalBytes (b : Bytes) : Bool :=
  match b with
  | [] => false
  | b0 :: _ =>
    versionOf b0 == Sys2Proof.Config.versionSupported && reservedOf b0 == 0 &&
    b.length == headerLength (teidFlagOf b0) && b.getLast? == some 0

/-- Header bytes with the reserved bits of byte 0 and the spare byte (the last of the header) forced to zero (R152). -/
def canonicalise (b : Bytes) : Bytes :=
  match b with
  | [] => []
  | b0 :: rest => (b0 &&& 0xF8) :: (rest.dropLast ++ [0])

/-- The bytes of a view over a buffer, if the buffer has them all (R31). -/
def viewBytes (buffer : Bytes) (v : View) : Option Bytes :=
  if v.start + v.len ≤ buffer.length then some ((buffer.drop v.start).take v.len) else none

end Sys2Proof.Machine
end

