-- ==== Sys2Proof/Machine/Ops.lean ====
section
/-! DEFINITION. The named operations over memory and registers that every meaning is written with: the pseudocode's
`MemRead`, `MemWrite`, `prependBytes`, `raise` and `return` (spec 00_scope R14, R17). -/

namespace Sys2Proof.Machine

/-- A byte of a buffer by its offset; an offset at or beyond the length does not exist (R12, R44). -/
def readByte (b : Bytes) (off : Nat) : Option Byte := b[off]?

/-- The unsigned big-endian value of a byte sequence, the lowest offset most significant (R51). -/
def bigEndian (b : Bytes) : Nat := b.foldl (fun acc x => acc * 256 + x.toNat) 0

/-- The `n` bytes of a value, most significant first: byte `k` is `(v >> (8*(n-1-k)))[7:0]` (R14). -/
def bigEndianBytes : Nat → Nat → Bytes
  | 0, _ => []
  | n + 1, v => BitVec.ofNat 8 (v / 256 ^ n) :: bigEndianBytes n v

/-- `MemRead(B, off, n)`, defined only inside the buffer (R14). -/
def memRead (b : Bytes) (off n : Nat) : Option Nat :=
  if off + n ≤ b.length then some (bigEndian ((b.drop off).take n)) else none

/-- `MemWrite(W, off, n, v)`, defined only inside the window (R14). -/
def memWrite (w : Bytes) (off n v : Nat) : Option Bytes :=
  if off + n ≤ w.length then some (w.take off ++ bigEndianBytes n v ++ w.drop (off + n)) else none

/-- A buffer as (offset, byte) pairs, the form of `Host.Cell`. -/
def bufferCells (b : Bytes) : List Host.Cell := b.zipIdx.map fun x => (x.2, x.1)

/-- The canonical form of a list of cells: offsets strictly rising. -/
def Memory.wf (cells : List Host.Cell) : Bool := decide (cells.Pairwise fun x y => x.1 < y.1)

/-- `prependBytes(SB, n)`: the environment's answer decides whether a window of exactly `n` bytes is given; its initial
content is a free value (R17, R142, U15). -/
def prependBytes (n : Nat) (s : State) : Option Bytes :=
  if s.prependOk then some ((List.range n).map (Sys2Proof.Config.freshByte s.prependLog.length)) else none

/-- The environment has been asked for `n` bytes (R142). -/
def notePrepend (n : Nat) (s : State) : State := { s with prependLog := n :: s.prependLog }

/-- The input buffers that stand as the caller provided them, by their numbers: IB, then the earlier ones (R63). -/
def liveBuffers (s : State) : List (Nat × Bytes) := (s.ibId, s.ib) :: s.earlier

/-- The bytes of an input buffer; none once the caller has changed, reused or freed it (R67, R215). -/
def bufferBytes (s : State) (buffer : Nat) : Option Bytes := (liveBuffers s).lookup buffer

/-- The payload operand describes bytes: the caller's own do, a view's do while its buffer stands (R215). DEDUCED, log entry
14. -/
def payloadUsable (s : State) : Bool :=
  match s.payloadSource with
  | .callerBytes => true
  | .viewOf buffer => (bufferBytes s buffer).isSome

/-- DISPATCH's use of its payload operand: a view whose buffer was changed, reused or freed since is refused (R67, R198, R215, U5,
D16). DEDUCED, log entry 14. -/
def withPayload (s : State) (k : Bytes → Host.Outcome State Fault Refusal) : Host.Outcome State Fault Refusal :=
  if payloadUsable s then k s.p else .refused .staleView

/-- `raise E`, the block's one way to take an exception: the operation ends, `err` holds the kind, `hdr_valid` is false,
and nothing else changes (R187 to R189; DEDUCED, log entries 10 and 11). No pc, status or mode is saved and no handler exists (R187). There is no
return from it (R190): the step that follows is the caller's next call. -/
def raiseError (op : Op) (e : ErrorKind) (s : State) : State :=
  { s with err := .error e, hdrValid := false, lastOp := some op }

/-- `return` of DECODE: a fresh Header, the length consumed, `err = OK`, `hdr_valid` true (R120). The caller now holds the
Header, with views over the input buffer as it stands. -/
def returnHeader (h : Header) (consumed : Nat) (s : State) : State :=
  { s with header := h, hdrValid := true, err := .ok, consumedLength := consumed, lastOp := some .decode,
           heldHeader := some h, heldBuffer := s.ibId }

/-- `return` of ENCODE: SB is the window followed by its earlier content, and the window is the returned byte sequence
(R66, R140). The last operation is no DECODE, so `hdr_valid` is false (R40; DEDUCED, log entry 16). -/
def returnWindow (w : Bytes) (s : State) : State :=
  { s with sb := w ++ s.sb, window := w, err := .ok, hdrValid := false, lastOp := some .encode }

/-- `return` of DISPATCH (R160). -/
def returnNext (n : NextProtocol) (s : State) : State :=
  { s with next := n, err := .ok, hdrValid := false, lastOp := some .dispatch }

end Sys2Proof.Machine
end

