-- ==== Sys2Proof/Machine/Capabilities.lean ====
section
/-! DEFINITION. What the block exposes to the framework (spec 42_dispatch R168): the result as a sum type, the layer-type
capabilities, and the layer type that corresponds to a next protocol. -/

namespace Sys2Proof.Machine

open Sys2Proof.Config (LayerTag)

/-- What the caller may read of the result record: the results of the last operation, if one ran (R39 to R42, R188). Before
the first operation there is nothing to read (R49). -/
def result (s : State) : Option Result :=
  match s.lastOp, s.err with
  | none, _ => none
  | some _, .error e => some (.failed e)
  | some .decode, .ok => some (.decoded s.header s.consumedLength)
  | some .encode, .ok => some (.encoded s.window)
  | some .dispatch, .ok => some (.dispatched s.next)

/-- `layerType()`: the constant `layer_type` (R43, R168 (b)). -/
def layerTypeCapability (s : State) : LayerTag := s.layerType

/-- `canDecode()`: the class that holds exactly the one layer type of this codec (R168 (b), D26). -/
def canDecodeCapability (s : State) : List LayerTag := [s.layerType]

/-- The framework's tag of a next protocol, what `nextDecoder(layerType)` is called with (R102, R165 step 6). -/
def layerTagOf : NextProtocol → LayerTag
  | .ipv4 => Sys2Proof.Config.layerTypeIpv4
  | .ipv6 => Sys2Proof.Config.layerTypeIpv6
  | .ppp => Sys2Proof.Config.layerTypePpp

/-- What `nextLayerType()` has returned: the layer type of `next`, when the last operation was a DISPATCH that succeeded
(R42, R168 (c)). -/
def nextLayerTag (s : State) : Option LayerTag :=
  match result s with
  | some (.dispatched n) => some (layerTagOf n)
  | _ => none

end Sys2Proof.Machine
end

