-- ==== Sys2Proof/Machine/Classify.lean ====
section
/-! DEFINITION. The operation DISPATCH and the three rows of the payload nibble (spec 42_dispatch R160 to R164,
30_encoding R99). -/

namespace Sys2Proof.Machine

/-- The choice of R162, over the nibble of R160. -/
def protocolOfNibble (nibble : BitVec 4) : NextProtocol :=
  if nibble = Sys2Proof.Config.nibbleIpv4 then .ipv4
  else if nibble = Sys2Proof.Config.nibbleIpv6 then .ipv6
  else .ppp

/-- DISPATCH, the pseudocode of R160: the guard (R161), then the top nibble of the first byte. -/
def execDispatch (s : State) : Host.Outcome State Fault Refusal :=
  withPayload s fun p =>
    if p.length = 0 then .next (raiseError .dispatch .emptyPayload s)
    else
      match memRead p 0 1 with
      | none => .fault .outOfBounds
      | some v => .next (returnNext (protocolOfNibble ((BitVec.ofNat 8 v).extractLsb' 4 4)) s)

/-- DEDUCED, log entry 1. The result of a payload row: the dispatcher's guard, then the row's own protocol. -/
def classifyAs (n : NextProtocol) (s : State) : Host.Outcome State Fault Refusal :=
  withPayload s fun p => .next (if p = [] then raiseError .dispatch .emptyPayload s else returnNext n s)

/-- NEXT.IPV4 (R99): the low nibble is ignored. -/
def execNextIpv4 (_low : BitVec 4) (s : State) : Host.Outcome State Fault Refusal := classifyAs .ipv4 s

/-- NEXT.IPV6 (R99). -/
def execNextIpv6 (_low : BitVec 4) (s : State) : Host.Outcome State Fault Refusal := classifyAs .ipv6 s

/-- NEXT.PPP (R99), the fallback. -/
def execNextPpp (_nibble _low : BitVec 4) (s : State) : Host.Outcome State Fault Refusal := classifyAs .ppp s

end Sys2Proof.Machine
end

