-- ==== Sys2Proof/Machine/Formats.lean ====
section
/-! DEFINITION. The two rows of the header formats (spec 30_encoding R80 to R87, R97): the success classes of DECODE, from
the row's fields. -/

namespace Sys2Proof.Machine

/-- DEDUCED, log entry 1. The result of a header row of the given length: the class "cut short" of R97 when the input buffer is shorter than the
format, else the row's fields with the views of R29 and R30. -/
def acceptHeader (length : Nat) (fields : Header) (s : State) : State :=
  if s.ib.length < length then raiseError .decode .truncatedHeader s
  else
    returnHeader
      { fields with contents := { start := 0, len := length }
                    payload := { start := length, len := s.ib.length - length } }
      length s

/-- GTP2C.H8 (R86, R97): T is clear, so `teid` is the absent field's zero (R27). The reserved bits and the spare byte leave
no trace (R92, R93). -/
def execGtp2cH8 (piggybackingFlag : Bool) (_reserved : BitVec 3) (messageType : Byte) (messageLength : BitVec 16)
    (sequenceNumber : BitVec 24) (_spare : Byte) (s : State) : Host.Outcome State Fault Refusal :=
  .next (acceptHeader Sys2Proof.Config.hlenNoTeid
    { Header.zeros with
        version := Sys2Proof.Config.versionSupported, piggybackingFlag := piggybackingFlag, teidFlag := false
        messageType := messageType, messageLength := messageLength, teid := 0, sequenceNumber := sequenceNumber } s)

/-- GTP2C.H12 (R86, R97): T is set. -/
def execGtp2cH12 (piggybackingFlag : Bool) (_reserved : BitVec 3) (messageType : Byte) (messageLength : BitVec 16)
    (teid : BitVec 32) (sequenceNumber : BitVec 24) (_spare : Byte) (s : State) : Host.Outcome State Fault Refusal :=
  .next (acceptHeader Sys2Proof.Config.hlenTeid
    { Header.zeros with
        version := Sys2Proof.Config.versionSupported, piggybackingFlag := piggybackingFlag, teidFlag := true
        messageType := messageType, messageLength := messageLength, teid := teid, sequenceNumber := sequenceNumber } s)

end Sys2Proof.Machine
end

