-- ==== Sys2Proof/Machine/Parse.lean ====
section
/-! DEFINITION. The operation DECODE (spec 40_decode R120 to R133). -/

namespace Sys2Proof.Machine

/-- DECODE, the pseudocode of R120 line by line: the length test (R121), the version test (R122), the variant's length
test (R123), then the fields (R124 to R127) and the views (R128). The reserved bits and the spare byte are read with
their neighbours and dropped. -/
def execDecode (s : State) : Host.Outcome State Fault Refusal :=
  if s.ib.length < Sys2Proof.Config.minDecodeLen then .next (raiseError .decode .truncatedHeader s)
  else
    match memRead s.ib 0 1 with
    | none => .fault .outOfBounds
    | some v0 =>
      let b0 : Byte := BitVec.ofNat 8 v0
      let t := teidFlagOf b0
      if versionOf b0 ≠ Sys2Proof.Config.versionSupported then .next (raiseError .decode .unsupportedVersion s)
      else if s.ib.length < headerLength t then .next (raiseError .decode .truncatedHeader s)
      else
        match memRead s.ib 1 1, memRead s.ib 2 2, (if t then memRead s.ib 4 4 else some 0),
          memRead s.ib (windowOffset t) 4 with
        | some mt, some ml, some tid, some w =>
          .next (returnHeader
            { version := versionOf b0
              piggybackingFlag := piggybackOf b0
              teidFlag := t
              messageType := BitVec.ofNat 8 mt
              messageLength := BitVec.ofNat 16 ml
              teid := BitVec.ofNat 32 tid
              sequenceNumber := (BitVec.ofNat 32 w).extractLsb' 8 24
              contents := { start := 0, len := headerLength t }
              payload := { start := headerLength t, len := s.ib.length - headerLength t } }
            (headerLength t) s)
        | _, _, _, _ => .fault .outOfBounds

end Sys2Proof.Machine
end

