-- ==== Sys2Proof/Machine/Serialize.lean ====
section
/-! DEFINITION. The operation ENCODE (spec 41_encode R140 to R153). -/

namespace Sys2Proof.Machine

/-- The writes of ENCODE into its window, in the order of R140: byte 0 (R143), `messageType` and `messageLength` (R144),
`teid` when T is set (R145), `sequenceNumber` and the zeroed spare byte (R145, R146). -/
def writeHeader (w : Bytes) (teidFlag : Bool) (f : EncodeFields) : Option Bytes :=
  (memWrite w 0 1 (byte0Of f.version f.piggybackingFlag teidFlag).toNat).bind fun w =>
  (memWrite w 1 1 f.messageType.toNat).bind fun w =>
  (memWrite w 2 2 f.messageLength.toNat).bind fun w =>
  (if teidFlag then memWrite w 4 4 f.teid.toNat else some w).bind fun w =>
  (memWrite w (windowOffset teidFlag) 3 f.sequenceNumber.toNat).bind fun w =>
  memWrite w (windowOffset teidFlag + 3) 1 0

/-- ENCODE (R140): one prepend request for exactly the header's length (R141, R142), then the writes. Nothing is
validated or computed (R147). A field the caller never set has no value to write (R214). The fields after `teidFlag` are read
only when the prepend has succeeded (DEDUCED, log entry 17). -/
def execEncode (s : State) : Host.Outcome State Fault Refusal :=
  match readField .teidFlag s.operand.teidFlag with
  | .error f => .refused (.headerFieldUnset f)
  | .ok t =>
    match prependBytes (headerLength t) s with
    | none => .next (raiseError .encode .bufferAllocationFailure (notePrepend (headerLength t) s))
    | some w0 =>
      match readEncodeFields s.operand t with
      | .error f => .refused (.headerFieldUnset f)
      | .ok f =>
        match writeHeader w0 t f with
        | none => .fault .outOfBounds
        | some w => .next (returnWindow w (notePrepend (headerLength t) s))

end Sys2Proof.Machine
end

