-- ==== Sys2Proof/Machine/Dispatch.lean ====
section
/-! DEFINITION. One arm per instruction, each the call of its meaning. -/

namespace Sys2Proof.Machine

open Sys2Proof (Instr)

def exec (i : Instr) (s : State) : Host.Outcome State Fault Refusal :=
  match i with
  | .decode => Sys2Proof.Machine.execDecode s
  | .encode => Sys2Proof.Machine.execEncode s
  | .dispatch => Sys2Proof.Machine.execDispatch s
  | .gtp2cH8 p r mt ml seq z => Sys2Proof.Machine.execGtp2cH8 p r mt ml seq z s
  | .gtp2cH12 p r mt ml tid seq z => Sys2Proof.Machine.execGtp2cH12 p r mt ml tid seq z s
  | .nextIpv4 low => Sys2Proof.Machine.execNextIpv4 low s
  | .nextIpv6 low => Sys2Proof.Machine.execNextIpv6 low s
  | .nextPpp nibble low => Sys2Proof.Machine.execNextPpp nibble low s

end Sys2Proof.Machine
end

