-- ==== Sys2Proof/Machine/Interface.lean ====
section
/-! DEFINITION. What each call of the caller does: fetching an instruction at one of the three ports and running it, and
the caller's own moves between operations (spec 42_dispatch R164 to R168, 70_reset_and_hazards R210 to R216). -/

namespace Sys2Proof.Machine

open Sys2Proof (Instr DecodeReject decodeCommand decodeAt)

/-- The command port: the code selects the operation; code 3 is refused (R100). -/
def runCommand (op : BitVec 2) (s : State) : Host.Outcome State Fault Refusal :=
  match decodeCommand op with
  | .ok i => exec i s
  | .error _ => .refused .reservedCommand

/-- The error that bytes which are no header raise at the decode entry point (R97). -/
def headerError : DecodeReject → ErrorKind
  | .unsupportedVersion => .unsupportedVersion
  | .truncatedHeader => .truncatedHeader
  | .noCommand => .truncatedHeader
  | .notACommand => .truncatedHeader
  | .reservedCommand => .truncatedHeader
  | .emptyPayload => .truncatedHeader

/-- The decode entry point: the header at the front of the input buffer is fetched and run (R97, R165 step 1). -/
def runHeaderEntry (s : State) : Host.Outcome State Fault Refusal :=
  match decodeAt .header s.ib with
  | .ok (i, _) => exec i s
  | .error r => .next (raiseError .decode (headerError r) s)

/-- The dispatcher's entry point: the first payload byte is fetched and run (R99, R160). -/
def runPayloadEntry (s : State) : Host.Outcome State Fault Refusal :=
  withPayload s fun p =>
    match decodeAt .payload p with
    | .ok (i, _) => exec i s
    | .error _ => .next (raiseError .dispatch .emptyPayload s)

/-- The caller reads the Header it holds (R168 (a)); with none there is nothing to read (R49, U13). -/
def withHeldHeader (s : State) (k : Header → Host.Outcome State Fault Refusal) : Host.Outcome State Fault Refusal :=
  match s.heldHeader with
  | none => .refused .noHeaderHeld
  | some h => k h

/-- The payload operand is now these bytes, of this source. -/
def setPayload (source : PayloadSource) (bytes : Bytes) (s : State) : State := { s with p := bytes, payloadSource := source }

/-- The caller forms DISPATCH's operand from the payload view of the Header it holds (R30, R164). A view whose buffer was changed,
reused or freed describes nothing (R215, U5; DEDUCED, log entry 14). A view holds no copy (R29): the operand formed here depends
on its buffer. That the model keeps the view's bytes in `p` beside the buffer's number, which no operation can tell from
reading them in the buffer, is a DESIGN CHOICE, log entry 14. -/
def withPayloadView (s : State) (k : State → Host.Outcome State Fault Refusal) : Host.Outcome State Fault Refusal :=
  withHeldHeader s fun h =>
    match bufferBytes s s.heldBuffer with
    | none => .refused .staleView
    | some buffer =>
      match viewBytes buffer h.payload with
      | some bytes => k (setPayload (.viewOf s.heldBuffer) bytes s)
      | none => .fault .outOfBounds

/-- The caller's input buffer is now this one. The one before stays alive and unchanged with its views (R63, R67), until the
caller says otherwise. DEDUCED, log entry 22. -/
def giveInput (data : Bytes) (s : State) : State :=
  { s with ib := data, ibId := s.ibId + 1, earlier := liveBuffers s }

/-- The caller changed, reused or freed IB in place: the buffer under its old number is gone, and what the memory holds now
counts as a new one (R67, R215). DEDUCED, log entry 22. -/
def overwriteInput (data : Bytes) (s : State) : State := { s with ib := data, ibId := s.ibId + 1 }

/-- The caller changed, reused or freed an input buffer it provided before; IB itself is then overwritten by nothing (R67, R215).
DEDUCED, log entry 22. -/
def releaseBuffer (buffer : Nat) (s : State) : State :=
  if buffer = s.ibId then overwriteInput [] s else { s with earlier := s.earlier.filter (fun e => e.1 != buffer) }

/-- The framework's chain (R165): DECODE; if it fails the chain stops with its error; if it succeeds `nextLayerType()` is
the next call. DEDUCED, log entry 21. -/
def runDecodeChain (s : State) : Host.Outcome State Fault Refusal :=
  match exec .decode s with
  | .next t => .next (if t.err = .ok then { t with calls := .nextLayerType :: t.calls } else t)
  | .fault f => .fault f
  | .refused r => .refused r

/-- Reset between operations (R49, R210): the result record is as after reset; the buffers, the operands, the caller's
Header and the calls are not the block's. DEDUCED, log entry 20. -/
def resetRecord (s : State) : State :=
  { s with header := State.reset.header, hdrValid := State.reset.hdrValid, err := State.reset.err
           consumedLength := State.reset.consumedLength, next := State.reset.next, window := State.reset.window
           layerType := State.reset.layerType, lastOp := State.reset.lastOp }

/-- One call of the caller. `nextLayerType()` leaves the payload view it dispatched as the payload operand of later DISPATCH
commands, in place of what was there; the spec is silent on it. DESIGN CHOICE, log entry 21. -/
def performCall (c : Call) (s : State) : Host.Outcome State Fault Refusal :=
  match c with
  | .command op => runCommand op s
  | .decodeEntry => runHeaderEntry s
  | .dispatchEntry => runPayloadEntry s
  | .nextLayerType => withPayloadView s (exec .dispatch)
  | .decodeChain => runDecodeChain s
  | .giveInput data => .next (giveInput data s)
  | .overwriteInput data => .next (overwriteInput data s)
  | .releaseBuffer buffer => .next (releaseBuffer buffer s)
  | .giveSerializedAsInput => .next (giveInput s.sb s)
  | .giveSerializeBuffer content => .next { s with sb := content }
  | .giveHeader h => .next { s with operand := h }
  | .giveDecodedHeader => withHeldHeader s fun h => .next { s with operand := operandOfHeader h }
  | .givePayload p => .next (setPayload .callerBytes p s)
  | .givePayloadView => withPayloadView s .next
  | .answerPrepend ok => .next { s with prependOk := ok }
  | .resetBlock => .next (resetRecord s)

/-- The calls of the pseudo-operation ROUNDTRIP (R104): ENCODE into an empty serialize buffer, then DECODE of the result. -/
def roundTripCalls (h : HeaderOperand) : List Call :=
  [.giveSerializeBuffer [], .giveHeader h, .command (opCode .encode), .giveSerializedAsInput, .command (opCode .decode)]

/-- The calls of the pseudo-operation DECODE+DISPATCH (R104). -/
def decodeDispatchCalls (data : Bytes) : List Call := [.giveInput data, .decodeChain]

end Sys2Proof.Machine
end

