-- ==== Sys2Proof/Machine/Step.lean ====
section
/-! DEFINITION. One step of the machine: the caller's next call, performed to its return (spec 10_state R36,
70_reset_and_hazards R224). -/

namespace Sys2Proof.Machine

/-- One step. With no call pending the block does nothing: it has no background work (R47, R191). DESIGN CHOICE,
log entry 2. -/
def step (s : State) : Host.Outcome State Fault Refusal :=
  match s.calls with
  | [] => .next s
  | c :: rest => performCall c { s with calls := rest }

/-- The operand Header of a call whose operand words are zeros: every field set, to zero. -/
def HeaderOperand.zeros : HeaderOperand := operandOfHeader Header.zeros

/-- The state in which the very next step fetches and runs the instruction of this opcode-table word: its bytes stand at
the port the word belongs to and a call to that port is the next one. A command comes with its operands, so ENCODE's
Header operand is set (R214). DESIGN CHOICE, log entry 9. -/
def State.withFetchWord (s : State) (nbits w : Nat) : State :=
  match Sys2Proof.tablePort nbits w with
  | .command => { s with operand := HeaderOperand.zeros, calls := .command (Sys2Proof.tableCommand nbits w) :: s.calls }
  | .header => { giveInput (Sys2Proof.tableWordBytes nbits w) s with calls := .decodeEntry :: s.calls }
  | .payload => { setPayload .callerBytes (Sys2Proof.tableWordBytes nbits w) s with calls := .dispatchEntry :: s.calls }

end Sys2Proof.Machine
end

