-- ==== Sys2Proof/Safety.lean ====
section
/-! DEFINITION. What counts as a safe run, in the terms the claims use: the consistency of the result record with the
operation that produced it, the shape of every Header a DECODE returned, and an outcome that is no fault. -/

namespace Sys2Proof.Machine

/-- What holds of every Header that DECODE returned (R31, R126, R128, R129). -/
structure DecodedShape (h : Header) : Prop where
  version_supported : h.version = Sys2Proof.Config.versionSupported
  absent_teid_zero : h.teidFlag = false → h.teid = 0
  contents_start : h.contents.start = 0
  contents_len : h.contents.len = headerLength h.teidFlag
  payload_start : h.payload.start = headerLength h.teidFlag

/-- The statuses an operation can report (R39, R180). -/
def statusesOf : Op → List Status
  | .decode => [.ok, .error .truncatedHeader, .error .unsupportedVersion]
  | .encode => [.ok, .error .bufferAllocationFailure]
  | .dispatch => [.ok, .error .emptyPayload]

/-- The result record is consistent: `hdr_valid` says that the last operation was a DECODE that succeeded (R40), a valid
Header output is the one the caller holds, `err` is one its operation can report (R39), `layer_type` is its constant
(R43), the views of a held Header split the buffer they range over (R31), and a payload operand formed from a view whose buffer
stands is the end of that buffer, so its bytes are no copy that could differ (R29, R30). The numbers of the buffers fall
strictly from IB's down, and no Header or operand refers to a buffer not yet provided. What is held, what it came from and the
numbers are the model's own, log entries 14, 16 and 22. -/
structure RecordInv (s : State) : Prop where
  hdrValid_iff : s.hdrValid = true ↔ (s.lastOp = some .decode ∧ s.err = .ok)
  valid_is_held : s.hdrValid = true → s.heldHeader = some s.header
  valid_consumed : s.hdrValid = true → s.consumedLength = s.header.contents.len
  held_shape : ∀ h, s.heldHeader = some h → DecodedShape h
  live_views_split : ∀ h b, s.heldHeader = some h → bufferBytes s s.heldBuffer = some b →
    h.contents.len + h.payload.len = b.length
  status_of_op : ∀ op, s.lastOp = some op → s.err ∈ statusesOf op
  live_payload : ∀ buffer b, s.payloadSource = .viewOf buffer → bufferBytes s buffer = some b → s.p <:+ b
  buffers_ordered : ((liveBuffers s).map (·.1)).Pairwise (· > ·)
  held_provided : s.heldBuffer ≤ s.ibId
  payload_provided : ∀ buffer, s.payloadSource = .viewOf buffer → buffer ≤ s.ibId
  layer_constant : s.layerType = Sys2Proof.Config.layerTypeGtpv2c

/-- `k` steps of the machine, stopping at a fault or a refusal. -/
def runSteps : Nat → State → Host.Outcome State Fault Refusal
  | 0, s => .next s
  | k + 1, s =>
    match step s with
    | .next t => runSteps k t
    | .fault f => .fault f
    | .refused r => .refused r

/-- The instruction does the same in both states, as far as the caller can tell: the same readable result and status, or the
same refusal. -/
def SameOutcome (i : Sys2Proof.Instr) (s s' : State) : Prop :=
  (∀ t, exec i s = .next t → ∃ t', exec i s' = .next t' ∧ result t' = result t ∧ t'.hdrValid = t.hdrValid ∧ t'.err = t.err) ∧
  (∀ r, exec i s = .refused r → exec i s' = .refused r)

/-- An outcome that is no fault. -/
def NoFault (o : Host.Outcome State Fault Refusal) : Prop := ∀ f, o ≠ .fault f

end Sys2Proof.Machine
end

