-- ==== Sys2Proof/Certificates/Slice0/Obligations.lean ====
section
/-! DEFINITION. The statements for the provers. Each docstring names the rule of spec/ that the statement formalises; a
statement that rests on a choice of the model says so and names the log entry. -/

open Sys2Proof Sys2Proof.Machine

/-! ### Reset and the invariant -/

/-- After reset no result may be read: `hdr_valid` is false, no operation has run and no Header is held, and `layer_type` is
its constant (R49, R210). The Header held and the record of the last operation are the model's own fields, and that they are
empty after reset is the model's reading (log entries 14 and 16). -/
def Obligations.ResetHasNoReadableResult : Prop :=
  State.reset.hdrValid = false ∧ result State.reset = none ∧ State.reset.heldHeader = none ∧
    State.reset.layerType = Config.layerTypeGtpv2c

/-- The reset state meets the record invariant. Its clauses on the Header held, the liveness of views and of the payload operand and
the last operation, and on the numbers of the buffers, speak of the model's own fields (log entries 14, 16 and 22). -/
def Obligations.ResetMeetsRecordInv : Prop := RecordInv State.reset

/-- Every step keeps the record invariant: `hdr_valid` is true exactly when the last operation was a DECODE that ended with
OK (R40), the statuses are those of the operation (R39), `layer_type` never changes (R43), the views of the Header the
caller holds split their buffer (R31), and a payload operand formed from a view whose buffer stands is the end of that buffer
(R29, R30). What `hdr_valid` is after ENCODE and DISPATCH, and the Header the caller
holds, are read as log entries 14 and 16 say, the numbers of the buffers as log entry 22 says. -/
def Obligations.StepKeepsRecordInv : Prop :=
  ∀ s t : State, RecordInv s → step s = .next t → RecordInv t

/-! ### A step runs the decoded instruction -/

/-- The command codes (R100): 0 runs DECODE, 1 ENCODE, 2 DISPATCH, and 3 is refused. -/
def Obligations.CommandCodesSelectOperations : Prop :=
  ∀ (s : State) (rest : List Call),
    step { s with calls := .command 0 :: rest } = exec .decode { s with calls := rest } ∧
    step { s with calls := .command 1 :: rest } = exec .encode { s with calls := rest } ∧
    step { s with calls := .command 2 :: rest } = exec .dispatch { s with calls := rest } ∧
    step { s with calls := .command 3 :: rest } = .refused .reservedCommand

/-- A step runs the instruction that the bytes at its port decode to, with the call taken from the list of calls. How the
format rows are fetched is the model's choice (log entries 1 and 2). -/
def Obligations.StepRunsTheDecodedInstruction : Prop :=
  ∀ (s : State) (rest : List Call) (i : Instr),
    (∀ op, decodeCommand op = .ok i → step { s with calls := .command op :: rest } = exec i { s with calls := rest }) ∧
    (∀ tail, decodeAt .header s.ib = .ok (i, tail) →
      step { s with calls := .decodeEntry :: rest } = exec i { s with calls := rest }) ∧
    (∀ tail, decodeAt .payload s.p = .ok (i, tail) →
      step { s with calls := .dispatchEntry :: rest } = exec i { s with calls := rest })

/-- An opcode-table word that decodes to an instruction is run by the very next step, and placing it changes none of SB, the
environment's answer, the Header output, `hdr_valid`, `err`, `lastOp` and the calls that follow. The placing is the model's
choice (log entry 9). -/
def Obligations.FetchWordRunsTheDecodedRow : Prop :=
  ∀ (s : State) (nbits w : Nat) (i : Instr), decodeTableWord nbits w = some i →
    ∃ u : State, step (s.withFetchWord nbits w) = exec i u ∧ u.calls = s.calls ∧ u.sb = s.sb ∧
      u.prependOk = s.prependOk ∧ u.header = s.header ∧ u.hdrValid = s.hdrValid ∧ u.err = s.err ∧ u.lastOp = s.lastOp

/-- With no call pending a step changes nothing: the block does nothing on its own (R47, R191). That such a step exists at
all is the model's choice (log entry 2). -/
def Obligations.IdleStepChangesNothing : Prop :=
  ∀ s : State, s.calls = [] → step s = .next s

/-! ### Encodings -/

/-- Decoding the bytes of a well-formed instruction gives the instruction and what followed it (R86, R99; R100 for the command
codes, whose carrying in a byte is the model's choice, log entry 18). -/
def Obligations.DecodeInvertsEncode : Prop :=
  ∀ (i : Instr) (tail : Bytes), i.wellFormed = true → decodeAt i.port (encode i ++ tail) = .ok (i, tail)

/-- Bytes that decode to an instruction are that instruction's bytes: no bit of the input is lost and the decoder gives only
well-formed instructions of its port (R86, R99; R100 for the command codes, whose carrying in a byte is the model's choice, log
entry 18). -/
def Obligations.EncodeInvertsDecode : Prop :=
  ∀ (port : Port) (b tail : Bytes) (i : Instr), decodeAt port b = .ok (i, tail) →
    b = encode i ++ tail ∧ i.wellFormed = true ∧ i.port = port

/-- A few words written out from the spec's encodings decode to the instructions they stand for (vectors VD2, VD7, VX4, VX5,
VX9 of 95_test_vectors). -/
def Obligations.SampleWordsDecode : Prop :=
  decodeAt .header [0x40, 0x01, 0x00, 0x04, 0x12, 0x34, 0x56, 0x00] =
      .ok (.gtp2cH8 false 0 0x01 0x0004 0x123456 0x00, []) ∧
    decodeAt .header [0x48, 0x21, 0x00, 0x10, 0x12, 0x34, 0x56, 0x78, 0x00, 0x00, 0x2A, 0x00, 0x45] =
      .ok (.gtp2cH12 false 0 0x21 0x0010 0x12345678 0x00002A 0x00, [0x45]) ∧
    decodeAt .payload [0x4F] = .ok (.nextIpv4 0xF, []) ∧
    decodeAt .payload [0x6A] = .ok (.nextIpv6 0xA, []) ∧
    decodeAt .payload [0xFF] = .ok (.nextPpp 0xF 0xF, [])

/-- The status codes and the next-protocol codes, that no other code is produced (R101, R102), and that the tag handed on for
each protocol is the framework's open parameter for it. -/
def Obligations.InterfaceCodesAreThoseOfTheSpec : Prop :=
  statusCode .ok = 0 ∧ statusCode (.error .truncatedHeader) = 1 ∧ statusCode (.error .unsupportedVersion) = 2 ∧
    statusCode (.error .emptyPayload) = 3 ∧ statusCode (.error .bufferAllocationFailure) = 4 ∧
    (∀ st : Status, (statusCode st).toNat < 5) ∧
    nextCode .ipv4 = 0 ∧ nextCode .ipv6 = 1 ∧ nextCode .ppp = 2 ∧ (∀ n : NextProtocol, (nextCode n).toNat < 3) ∧
    layerTagOf .ipv4 = Config.layerTypeIpv4 ∧ layerTagOf .ipv6 = Config.layerTypeIpv6 ∧
    layerTagOf .ppp = Config.layerTypePpp

/-! ### DECODE -/

/-- DECODE's three tests in their order (R121, R122, R123): fewer than 8 bytes, then a version other than 2, then T set with
fewer than 12 bytes; with T clear the third test cannot fail. An error changes nothing but the status.
Which registers keep their content, and the model's own fields,
are as log entries 7, 11, 14 and 16 say. -/
def Obligations.DecodeRaisesErrorsInOrder : Prop :=
  ∀ s : State,
    (s.ib.length < 8 →
      exec .decode s =
        .next { s with err := .error .truncatedHeader, hdrValid := false, lastOp := some .decode }) ∧
    (∀ b0 : Byte, readByte s.ib 0 = some b0 → 8 ≤ s.ib.length → b0.extractLsb' 5 3 ≠ 2 →
      exec .decode s =
        .next { s with err := .error .unsupportedVersion, hdrValid := false, lastOp := some .decode }) ∧
    (∀ b0 : Byte, readByte s.ib 0 = some b0 → 8 ≤ s.ib.length → s.ib.length < 12 → b0.extractLsb' 5 3 = 2 →
      b0.getLsbD 3 = true →
      exec .decode s =
        .next { s with err := .error .truncatedHeader, hdrValid := false, lastOp := some .decode }) ∧
    (∀ b0 : Byte, readByte s.ib 0 = some b0 → 8 ≤ s.ib.length → b0.extractLsb' 5 3 = 2 → b0.getLsbD 3 = false →
      ∃ t : State, exec .decode s = .next t ∧ t.err = .ok)

/-- DECODE completes on a version-2 header and takes every field from its bytes (R124 to R128): with T clear the window is at
offset 4 and `teid` is zero; with T set `teid` is at 4 and the window at 8; the last window byte is dropped; the views are
(0, hlen) and the rest. Nothing else changes. Which registers keep their content, and the model's own fields,
are as log entries 7, 11, 14 and 16 say. -/
def Obligations.DecodeExtractsEveryField : Prop :=
  (∀ (s : State) (b0 b1 b2 b3 b4 b5 b6 b7 : Byte) (tail : Bytes),
    s.ib = b0 :: b1 :: b2 :: b3 :: b4 :: b5 :: b6 :: b7 :: tail → b0.extractLsb' 5 3 = 2 → b0.getLsbD 3 = false →
    let h : Header :=
      { version := 2, piggybackingFlag := b0.getLsbD 4, teidFlag := false, messageType := b1, messageLength := b2 ++ b3,
        teid := 0, sequenceNumber := b4 ++ b5 ++ b6, contents := { start := 0, len := 8 },
        payload := { start := 8, len := tail.length } }
    exec .decode s =
      .next { s with header := h, hdrValid := true, err := .ok, consumedLength := 8, lastOp := some .decode,
                     heldHeader := some h, heldBuffer := s.ibId }) ∧
  (∀ (s : State) (b0 b1 b2 b3 b4 b5 b6 b7 b8 b9 b10 b11 : Byte) (tail : Bytes),
    s.ib = b0 :: b1 :: b2 :: b3 :: b4 :: b5 :: b6 :: b7 :: b8 :: b9 :: b10 :: b11 :: tail →
    b0.extractLsb' 5 3 = 2 → b0.getLsbD 3 = true →
    let h : Header :=
      { version := 2, piggybackingFlag := b0.getLsbD 4, teidFlag := true, messageType := b1, messageLength := b2 ++ b3,
        teid := b4 ++ b5 ++ b6 ++ b7, sequenceNumber := b8 ++ b9 ++ b10, contents := { start := 0, len := 12 },
        payload := { start := 12, len := tail.length } }
    exec .decode s =
      .next { s with header := h, hdrValid := true, err := .ok, consumedLength := 12, lastOp := some .decode,
                     heldHeader := some h, heldBuffer := s.ibId })

/-- The five classes of R97 over a byte sequence: too short, wrong version, H12 cut short, H8, H12. `b0` is the first byte
(of no account when the sequence is shorter than 8). -/
def Obligations.DecodeClassesFixTheOutcome : Prop :=
  ∀ s : State, let b0 : Byte := s.ib.headD 0
    let classes : List Bool :=
      [decide (s.ib.length < 8), decide (8 ≤ s.ib.length ∧ b0 &&& 0xE0 ≠ 0x40),
       decide (8 ≤ s.ib.length ∧ s.ib.length ≤ 11 ∧ b0 &&& 0xE8 = 0x48), decide (8 ≤ s.ib.length ∧ b0 &&& 0xE8 = 0x40),
       decide (12 ≤ s.ib.length ∧ b0 &&& 0xE8 = 0x48)]
    classes.count true = 1 ∧
    ∃ t : State, exec .decode s = .next t ∧
      (s.ib.length < 8 → t.err = .error .truncatedHeader) ∧
      (8 ≤ s.ib.length → b0 &&& 0xE0 ≠ 0x40 → t.err = .error .unsupportedVersion) ∧
      (8 ≤ s.ib.length → s.ib.length ≤ 11 → b0 &&& 0xE8 = 0x48 → t.err = .error .truncatedHeader) ∧
      (8 ≤ s.ib.length → b0 &&& 0xE8 = 0x40 → t.err = .ok ∧ t.hdrValid = true ∧ t.consumedLength = 8) ∧
      (12 ≤ s.ib.length → b0 &&& 0xE8 = 0x48 → t.err = .ok ∧ t.hdrValid = true ∧ t.consumedLength = 12)

/-- No result of DECODE depends on the reserved bits of byte 0 or on the spare byte, and none of their values is an error
(R32, R33, and the DECODE halves of R92 and R93). -/
def Obligations.DecodeIgnoresReservedBitsAndSpare : Prop :=
  ∀ (s : State) (p : Bool) (r r' : BitVec 3) (mt : Byte) (ml : BitVec 16) (tid : BitVec 32) (seq : BitVec 24)
    (z z' : Byte) (tail : Bytes),
    (∃ t, exec .decode { s with ib := encode (.gtp2cH8 p r mt ml seq z) ++ tail } = .next t ∧ t.err = .ok ∧
      exec .decode { s with ib := encode (.gtp2cH8 p r' mt ml seq z') ++ tail } =
        .next { t with ib := encode (.gtp2cH8 p r' mt ml seq z') ++ tail }) ∧
    (∃ t, exec .decode { s with ib := encode (.gtp2cH12 p r mt ml tid seq z) ++ tail } = .next t ∧ t.err = .ok ∧
      exec .decode { s with ib := encode (.gtp2cH12 p r' mt ml tid seq z') ++ tail } =
        .next { t with ib := encode (.gtp2cH12 p r' mt ml tid seq z') ++ tail })

/-- What follows the header changes nothing of the result but the length of the payload view: no byte at or beyond the header
length is read (R54, and the last sentence of R128). -/
def Obligations.DecodeIgnoresTrailingBytes : Prop :=
  ∀ (s t : State) (hdr tail tail' : Bytes), exec .decode { s with ib := hdr ++ tail } = .next t → t.err = .ok →
    t.consumedLength = hdr.length →
    let h : Header := { t.header with payload := { start := hdr.length, len := tail'.length } }
    exec .decode { s with ib := hdr ++ tail' } =
      .next { t with ib := hdr ++ tail', header := h, heldHeader := some h }

/-- Every Header that DECODE returns is valid and its views split the input at the length consumed (R31, R41, R129). -/
def Obligations.DecodedViewsSplitTheInput : Prop :=
  ∀ s t : State, exec .decode s = .next t → t.hdrValid = true →
    DecodedShape t.header ∧ validHeader t.header = true ∧ t.header.payload.start = t.header.contents.len ∧
      t.header.contents.len + t.header.payload.len = s.ib.length ∧ t.consumedLength = t.header.contents.len

/-- The source's own example bytes and the corrected ones (conflict C1): the layout wins, so `… 00 00 14 4C` carries sequence
number 20 and `… 00 14 4C 00` carries 5196. -/
def Obligations.CorrectedLayoutOfTheExample : Prop :=
  ∀ s : State,
    (∃ t, exec .decode { s with ib := [0x48, 0x20, 0x01, 0x07, 0, 0, 0, 0, 0x00, 0x00, 0x14, 0x4C] } = .next t ∧
      t.header.sequenceNumber = 20 ∧ t.header.messageType = 32 ∧ t.header.messageLength = 263 ∧ t.header.teid = 0) ∧
    (∃ t, exec .decode { s with ib := [0x48, 0x20, 0x01, 0x07, 0, 0, 0, 0, 0x00, 0x14, 0x4C, 0x00] } = .next t ∧
      t.header.sequenceNumber = 5196)

/-! ### ENCODE -/

/-- ENCODE completes on a Header whose read fields are set when the prepend succeeds, and prepends exactly the bytes of the
layout (R141, R143 to R146): byte 0 from version and flags with bits 2:0 zero, `messageType`, `messageLength` big-endian,
`teid` only when T is set, the sequence number after it, and a zero spare byte. The earlier content of SB and everything else
but the status stay; one request for exactly the header's length was made. The version is not checked (R147).
Which registers keep their content, and the model's own fields,
are as log entries 7, 11, 14 and 16 say. -/
def Obligations.EncodePrependsTheHeaderBytes : Prop :=
  ∀ (s : State) (v : BitVec 3) (p : Bool) (mt : Byte) (ml : BitVec 16) (seq : BitVec 24),
    s.operand.version = some v → s.operand.piggybackingFlag = some p → s.operand.messageType = some mt →
    s.operand.messageLength = some ml → s.operand.sequenceNumber = some seq → s.prependOk = true →
    (s.operand.teidFlag = some false →
      let w : Bytes :=
        [(v.setWidth 8 <<< 5) ||| ((BitVec.ofBool p).setWidth 8 <<< 4), mt, ml.extractLsb' 8 8, ml.extractLsb' 0 8,
         seq.extractLsb' 16 8, seq.extractLsb' 8 8, seq.extractLsb' 0 8, 0]
      exec .encode s =
        .next { s with sb := w ++ s.sb, window := w, err := .ok, hdrValid := false, lastOp := some .encode,
                       prependLog := 8 :: s.prependLog }) ∧
    (∀ tid : BitVec 32, s.operand.teidFlag = some true → s.operand.teid = some tid →
      let w : Bytes :=
        [(v.setWidth 8 <<< 5) ||| ((BitVec.ofBool p).setWidth 8 <<< 4) ||| 0x08, mt, ml.extractLsb' 8 8,
         ml.extractLsb' 0 8, tid.extractLsb' 24 8, tid.extractLsb' 16 8, tid.extractLsb' 8 8, tid.extractLsb' 0 8,
         seq.extractLsb' 16 8, seq.extractLsb' 8 8, seq.extractLsb' 0 8, 0]
      exec .encode s =
        .next { s with sb := w ++ s.sb, window := w, err := .ok, hdrValid := false, lastOp := some .encode,
                       prependLog := 12 :: s.prependLog })

/-- `BufferAllocationFailure` is raised by ENCODE only, exactly when its one prepend request fails, and then nothing but the
status changes (R184, and the failure case of R142). That it is so even where another field was never set follows from the order
of ENCODE's reads, the model's reading (log entry 17). Which registers keep their content, and the model's own fields, are as log
entries 7, 11, 14 and 16 say. -/
def Obligations.AllocationFailureExactlyWhenPrependFails : Prop :=
  (∀ (s : State) (f : Bool), s.operand.teidFlag = some f → s.prependOk = false →
    exec .encode s =
      .next { s with err := .error .bufferAllocationFailure, hdrValid := false, lastOp := some .encode,
                     prependLog := (if f then 12 else 8) :: s.prependLog }) ∧
  (∀ (i : Instr) (s t : State), exec i s = .next t → t.err = .error .bufferAllocationFailure →
    i = .encode ∧ s.prependOk = false)

/-- ENCODE that reads a field the caller never set is refused, by the field's name for `teidFlag`, which is read first (R214).
The order of the reads is the model's reading (log entries 6 and 17). -/
def Obligations.EncodeRefusesFieldsNeverSet : Prop :=
  ∀ s : State,
    (s.operand.teidFlag = none → exec .encode s = .refused (.headerFieldUnset .teidFlag)) ∧
    (∀ f : Bool, s.operand.teidFlag = some f → s.prependOk = true →
      (s.operand.version = none ∨ s.operand.piggybackingFlag = none ∨ s.operand.messageType = none ∨
        s.operand.messageLength = none ∨ s.operand.sequenceNumber = none ∨ (f = true ∧ s.operand.teid = none)) →
      ∃ g : HeaderField, exec .encode s = .refused (.headerFieldUnset g))

/-- With T clear ENCODE ignores `teid`: whatever the operand holds there, set or not, the outcome is the same but for the
operand itself; and Headers that differ only in `teid` with T clear are equal on the wire (R148). -/
def Obligations.EncodeIgnoresAbsentTeid : Prop :=
  (∀ (s t : State) (x y : Option (BitVec 32)), s.operand.teidFlag = some false →
    exec .encode { s with operand := { s.operand with teid := x } } = .next t →
    exec .encode { s with operand := { s.operand with teid := y } } =
      .next { t with operand := { s.operand with teid := y } }) ∧
  (∀ (h : Header) (x : BitVec 32), h.teidFlag = false → wireEq h { h with teid := x } = true)

/-- ENCODE is deterministic (R150): the window's bytes are a function of the seven value fields alone, of six when `teidFlag` is
false, in any two states whose prepend succeeds, whatever the views, SB, the fresh window and the earlier results hold; and
encoding twice, when the second request succeeds too, puts two identical headers in front. -/
def Obligations.EncodeIsDeterministic : Prop :=
  ∀ s s' t : State, s'.operand.version = s.operand.version → s'.operand.piggybackingFlag = s.operand.piggybackingFlag →
    s'.operand.teidFlag = s.operand.teidFlag → s'.operand.messageType = s.operand.messageType →
    s'.operand.messageLength = s.operand.messageLength → s'.operand.sequenceNumber = s.operand.sequenceNumber →
    (s.operand.teidFlag = some true → s'.operand.teid = s.operand.teid) → s'.prependOk = true →
    exec .encode s = .next t → t.err = .ok →
    (∃ t' : State, exec .encode s' = .next t' ∧ t'.err = .ok ∧ t'.window = t.window ∧ t.sb = t.window ++ s.sb ∧
      t'.sb = t.window ++ s'.sb) ∧
    (∃ u : State, exec .encode { t with prependOk := true } = .next u ∧ u.sb = t.window ++ (t.window ++ s.sb))

/-- Prepend semantics (R66): after a successful ENCODE the serialize buffer is the window (8 or 12 bytes, by T) followed by
its earlier content, byte for byte; the window alone if there was none; and a later prepend goes in front. -/
def Obligations.EncodeKeepsEarlierContent : Prop :=
  ∀ s t : State, exec .encode s = .next t → t.err = .ok →
    t.sb = t.window ++ s.sb ∧
    (s.operand.teidFlag = some false ∧ t.window.length = 8 ∨ s.operand.teidFlag = some true ∧ t.window.length = 12) ∧
    (∀ k, readByte t.sb (t.window.length + k) = readByte s.sb k) ∧ (s.sb = [] → t.sb = t.window) ∧
    (∀ u v : State, u.sb = t.sb → exec .encode u = .next v → v.err = .ok →
      v.sb = v.window ++ (t.window ++ s.sb))

/-- ENCODE of a version-2 Header writes the bytes of the format row of its variant, reserved bits and spare byte zero: the
pseudocode and the format table agree (R86, R90, R98). -/
def Obligations.EncodeWritesTheFormatRow : Prop :=
  ∀ (s : State) (h : Header), s.operand = operandOfHeader h → h.version = 2 → s.prependOk = true →
    ∃ t : State, exec .encode s = .next t ∧ t.err = .ok ∧
      t.sb = encode (if h.teidFlag
        then .gtp2cH12 h.piggybackingFlag 0 h.messageType h.messageLength h.teid h.sequenceNumber 0
        else .gtp2cH8 h.piggybackingFlag 0 h.messageType h.messageLength h.sequenceNumber 0) ++ s.sb

/-- ENCODE and canonical bytes (R98): a valid Header gives canonical bytes, every canonical byte string is the output for some
valid Header, and two valid Headers with the same output are equal on the wire. -/
def Obligations.CanonicalBytesAreExactlyTheEncodings : Prop :=
  (∀ (s t : State) (h : Header), validHeader h = true → s.operand = operandOfHeader h → exec .encode s = .next t →
    t.err = .ok → canonicalBytes t.window = true) ∧
  (∀ b : Bytes, canonicalBytes b = true → ∃ h : Header, validHeader h = true ∧
    ∀ s : State, s.operand = operandOfHeader h → s.prependOk = true →
      ∃ t : State, exec .encode s = .next t ∧ t.err = .ok ∧ t.window = b) ∧
  (∀ (s s' t t' : State) (h h' : Header), validHeader h = true → validHeader h' = true → s.operand = operandOfHeader h →
    s'.operand = operandOfHeader h' → exec .encode s = .next t → exec .encode s' = .next t' → t.err = .ok →
    t'.err = .ok → t.window = t'.window → wireEq h h' = true)

/-! ### Round trips -/

/-- The round-trip law (R151): for every valid Header, ENCODE completes, and DECODE of the serialize buffer it leaves returns a
Header equal on the wire and with `teid` zero when T is clear, whatever the earlier content, consumes exactly the window, and has
the earlier content as payload. -/
def Obligations.DecodeAfterEncodeReturnsTheHeader : Prop :=
  ∀ (s : State) (h : Header), validHeader h = true → s.operand = operandOfHeader h → s.prependOk = true →
    ∃ t : State, exec .encode s = .next t ∧ t.err = .ok ∧
      ∀ u : State, u.ib = t.sb →
        ∃ v : State, exec .decode u = .next v ∧ v.err = .ok ∧ v.hdrValid = true ∧ wireEq v.header h = true ∧
          (h.teidFlag = false → v.header.teid = 0) ∧ v.consumedLength = t.window.length ∧
          v.header.payload = { start := t.window.length, len := s.sb.length }

/-- The other direction is a canonicalisation (R152): encoding a decoded Header gives the bytes consumed with the reserved bits
and the spare byte forced to zero, and gives them back exactly when they were canonical already. -/
def Obligations.EncodeAfterDecodeCanonicalises : Prop :=
  ∀ s t : State, exec .decode s = .next t → t.hdrValid = true →
    ∀ u : State, u.operand = operandOfHeader t.header → u.prependOk = true →
      ∃ v : State, exec .encode u = .next v ∧ v.err = .ok ∧
        v.window = canonicalise (s.ib.take t.consumedLength) ∧
        (v.window = s.ib.take t.consumedLength ↔ canonicalBytes (s.ib.take t.consumedLength) = true)

/-- The pseudo-operation ROUNDTRIP as a run of the machine (R104, R151): five steps from any state whose prepend succeeds end
with a Header equal on the wire to the one given, an empty payload view, and the remaining calls untouched. The calls are
the model's (log entries 2 and 21). -/
def Obligations.RoundTripRunReturnsTheHeader : Prop :=
  ∀ (s : State) (h : Header) (rest : List Call), validHeader h = true → s.prependOk = true →
    ∃ v : State,
      runSteps 5 { s with calls := roundTripCalls (operandOfHeader h) ++ rest } = .next v ∧
      v.hdrValid = true ∧ wireEq v.header h = true ∧ v.header.payload.len = 0 ∧ v.sb = v.ib ∧ v.calls = rest

/-! ### DISPATCH -/

/-- DISPATCH (R160, R161): an empty payload raises `EmptyPayload`; else the top nibble of the first byte chooses IPv4 for 4, IPv6
for 6, PPP for any other. Nothing else changes. An operand formed from a view whose buffer was changed or freed is refused (R198,
R215; log entry 14). Which registers keep their content, and the model's own fields,
are as log entries 7, 11, 14 and 16 say. -/
def Obligations.DispatchChoosesTheNextProtocol : Prop :=
  (∀ s : State, payloadUsable s = true → s.p = [] →
    exec .dispatch s = .next { s with err := .error .emptyPayload, hdrValid := false, lastOp := some .dispatch }) ∧
  (∀ (s : State) (b : Byte) (tail : Bytes), payloadUsable s = true → s.p = b :: tail →
    exec .dispatch s =
      .next { s with next := if b.extractLsb' 4 4 = 4 then .ipv4 else if b.extractLsb' 4 4 = 6 then .ipv6 else .ppp,
                     err := .ok, hdrValid := false, lastOp := some .dispatch }) ∧
  (∀ s : State, payloadUsable s = false → exec .dispatch s = .refused .staleView)

/-- The result of DISPATCH depends on the top nibble of the first payload byte alone (R56, R163): not on the low nibble, the
later bytes, or anything else in the state. The premise that the operand is no view of a buffer changed or freed since comes from
R198 and R215 as log entry 14 reads them. -/
def Obligations.DispatchDependsOnTheTopNibbleAlone : Prop :=
  ∀ (s s' : State) (nib low low' : BitVec 4) (tail tail' : Bytes),
    payloadUsable s = true → payloadUsable s' = true → s.p = ((nib ++ low : BitVec 8) :: tail) → s'.p = ((nib ++ low' : BitVec 8) :: tail') →
    ∃ t t' : State, exec .dispatch s = .next t ∧ exec .dispatch s' = .next t' ∧ result t = result t' ∧
      t.next = t'.next ∧ t.err = .ok

/-- Of the 256 first bytes 16 give IPv4, 16 IPv6 and 224 PPP (R99, R162). -/
def Obligations.DispatchCountsOverAllFirstBytes : Prop :=
  ∀ s : State,
    let outcome (k : Nat) : Option NextProtocol :=
      match exec .dispatch { s with p := [BitVec.ofNat 8 k], payloadSource := .callerBytes } with
      | .next t => some t.next
      | _ => none
    ((List.range 256).filter fun k => outcome k = some .ipv4).length = 16 ∧
    ((List.range 256).filter fun k => outcome k = some .ipv6).length = 16 ∧
    ((List.range 256).filter fun k => outcome k = some .ppp).length = 224

/-! ### The rows of the data formats -/

/-- GTP2C.H8 and GTP2C.H12 complete when the input buffer holds at least the format's length: the row's fields become the Header,
`teid` zero without T, the reserved bits and the spare byte leave no trace, and nothing else changes; a shorter buffer is
`TruncatedHeader` (R86, R97). Running a row by itself is the model's reading (log entry 1).
Which registers keep their content, and the model's own fields,
are as log entries 7, 11, 14 and 16 say. -/
def Obligations.HeaderRowsGiveTheirFields : Prop :=
  ∀ (s : State) (p : Bool) (r : BitVec 3) (mt : Byte) (ml : BitVec 16) (tid : BitVec 32) (seq : BitVec 24) (z : Byte),
    (8 ≤ s.ib.length →
      let h : Header :=
        { version := 2, piggybackingFlag := p, teidFlag := false, messageType := mt, messageLength := ml, teid := 0,
          sequenceNumber := seq, contents := { start := 0, len := 8 }, payload := { start := 8, len := s.ib.length - 8 } }
      exec (.gtp2cH8 p r mt ml seq z) s =
        .next { s with header := h, hdrValid := true, err := .ok, consumedLength := 8, lastOp := some .decode,
                       heldHeader := some h, heldBuffer := s.ibId }) ∧
    (12 ≤ s.ib.length →
      let h : Header :=
        { version := 2, piggybackingFlag := p, teidFlag := true, messageType := mt, messageLength := ml, teid := tid,
          sequenceNumber := seq, contents := { start := 0, len := 12 },
          payload := { start := 12, len := s.ib.length - 12 } }
      exec (.gtp2cH12 p r mt ml tid seq z) s =
        .next { s with header := h, hdrValid := true, err := .ok, consumedLength := 12, lastOp := some .decode,
                       heldHeader := some h, heldBuffer := s.ibId }) ∧
    (s.ib.length < 8 →
      exec (.gtp2cH8 p r mt ml seq z) s =
        .next { s with err := .error .truncatedHeader, hdrValid := false, lastOp := some .decode }) ∧
    (s.ib.length < 12 →
      exec (.gtp2cH12 p r mt ml tid seq z) s =
        .next { s with err := .error .truncatedHeader, hdrValid := false, lastOp := some .decode })

/-- NEXT.IPV4, NEXT.IPV6 and NEXT.PPP complete on a non-empty payload with their own protocol, whatever the ignored bits, and
change nothing else; an empty payload is `EmptyPayload` (R99, R161), and an operand formed from a view whose buffer was changed or
freed is refused (R198, R215; log entry 14). Running a row by itself is the model's reading (log entry 1). Which registers keep their content, and the model's own fields,
are as log entries 7, 11, 14 and 16 say. -/
def Obligations.PayloadRowsGiveTheirProtocol : Prop :=
  ∀ (s : State) (nib low : BitVec 4),
    (payloadUsable s = true → s.p ≠ [] →
      exec (.nextIpv4 low) s =
        .next { s with next := .ipv4, err := .ok, hdrValid := false, lastOp := some .dispatch } ∧
      exec (.nextIpv6 low) s =
        .next { s with next := .ipv6, err := .ok, hdrValid := false, lastOp := some .dispatch } ∧
      exec (.nextPpp nib low) s =
        .next { s with next := .ppp, err := .ok, hdrValid := false, lastOp := some .dispatch }) ∧
    (∀ i : Instr, i = .nextIpv4 low ∨ i = .nextIpv6 low ∨ i = .nextPpp nib low →
      (payloadUsable s = true → s.p = [] →
        exec i s = .next { s with err := .error .emptyPayload, hdrValid := false, lastOp := some .dispatch }) ∧
      (payloadUsable s = false → exec i s = .refused .staleView))

/-- The decode entry point, which reads the format table's masks and fields, and the operation DECODE, which follows the
pseudocode, do the same in every state (R87, R89, R97 against R120). Running a row is the model's reading (log entry 1). -/
def Obligations.DecodeEntryAgreesWithDecode : Prop :=
  ∀ (s : State) (rest : List Call),
    step { s with calls := .decodeEntry :: rest } = step { s with calls := .command (opCode .decode) :: rest }

/-- The dispatcher's entry point and the operation DISPATCH do the same in every state (R99 against R160).
Running a row is the model's reading (log entry 1). -/
def Obligations.DispatchEntryAgreesWithDispatch : Prop :=
  ∀ (s : State) (rest : List Call),
    step { s with calls := .dispatchEntry :: rest } = step { s with calls := .command (opCode .dispatch) :: rest }

/-! ### Errors, frames, independence -/

/-- No instruction makes an access outside its buffer (R60). -/
def Obligations.NoAccessLeavesItsBuffer : Prop :=
  ∀ (i : Instr) (s : State), NoFault (exec i s)

/-- From every state with a consistent record, a step, the caller's moves included, makes no access outside a buffer. -/
def Obligations.StepNeverFaults : Prop :=
  ∀ s : State, RecordInv s → NoFault (step s)

/-- The closed list of errors with their causes (R180 to R183): which operation reports which, and exactly when. -/
def Obligations.ErrorsAndTheirCauses : Prop :=
  (∀ s t : State, exec .decode s = .next t →
    let b0 : Byte := s.ib.headD 0
    (t.err = .error .truncatedHeader ↔
      s.ib.length < 8 ∨ (b0.extractLsb' 5 3 = 2 ∧ b0.getLsbD 3 = true ∧ s.ib.length < 12)) ∧
    (t.err = .error .unsupportedVersion ↔ 8 ≤ s.ib.length ∧ b0.extractLsb' 5 3 ≠ 2) ∧
    t.err ≠ .error .emptyPayload ∧ t.err ≠ .error .bufferAllocationFailure) ∧
  (∀ s t : State, exec .encode s = .next t →
    (t.err = .error .bufferAllocationFailure ↔ s.prependOk = false) ∧
    t.err ≠ .error .truncatedHeader ∧ t.err ≠ .error .unsupportedVersion ∧ t.err ≠ .error .emptyPayload) ∧
  (∀ s t : State, exec .dispatch s = .next t →
    (t.err = .error .emptyPayload ↔ s.p = []) ∧
    t.err ≠ .error .truncatedHeader ∧ t.err ≠ .error .unsupportedVersion ∧ t.err ≠ .error .bufferAllocationFailure)

/-- An operation that fails has changed nothing (R189): the buffers, the operands and every result register are as before; only
the status, the validity that goes with it, and the model's own record of the operation and of the prepend request differ.
That the result registers keep their content is the model's reading (log entry 11). -/
def Obligations.FailedOperationChangesNothing : Prop :=
  ∀ (i : Instr) (s t : State) (e : ErrorKind), exec i s = .next t → t.err = .error e →
    t = { s with err := .error e, hdrValid := false, lastOp := t.lastOp, prependLog := t.prependLog } ∧
      result t = some (.failed e)

/-- No instruction writes the input buffer, any buffer provided before, the payload operand (or what it came from), the Header operand or the environment's
answer, and none changes `layer_type` or the caller's calls (R43, R44, R149, R194). That the calls, the environment's answer, the
source of the payload operand and the numbers of the buffers stand in State is the model's own rendering (log entries 2, 5, 14
and 22). -/
def Obligations.OperandsAreNeverWritten : Prop :=
  ∀ (i : Instr) (s t : State), exec i s = .next t →
    t.ib = s.ib ∧ t.ibId = s.ibId ∧ t.earlier = s.earlier ∧ t.p = s.p ∧ t.payloadSource = s.payloadSource ∧ t.operand = s.operand ∧ t.prependOk = s.prependOk ∧
      t.layerType = s.layerType ∧ t.calls = s.calls

/-- Each result register is written by its own operation only, and SB by ENCODE only (R39 to R42, R50, R54 to R56): the Header
output, `consumedLength` and the Header held change only under DECODE and the header rows, `next` only under DISPATCH and the
payload rows, and every byte of SB is as before unless the instruction is ENCODE.
That a register of another operation keeps its content is the model's reading (log
entries 11 and 16). -/
def Obligations.ResultsAreWrittenByTheirOwnOperation : Prop :=
  ∀ (i : Instr) (s t : State), exec i s = .next t →
    ((i = .decode ∨ i.port = .header) ∨
      (t.header = s.header ∧ t.consumedLength = s.consumedLength ∧ t.heldHeader = s.heldHeader ∧
        t.heldBuffer = s.heldBuffer ∧ t.hdrValid = false)) ∧
    ((i = .dispatch ∨ i.port = .payload) ∨ t.next = s.next) ∧
    (i = .encode ∨ (t.window = s.window ∧ t.prependLog = s.prependLog ∧ ∀ k, readByte t.sb k = readByte s.sb k))

/-- Nothing persists (R20): what an instruction gives is a function of its own operands alone. DECODE and the header rows depend on IB
alone, DISPATCH and the payload rows on the payload operand alone (its bytes, and whether it is a view of a buffer changed or
freed since, which R198 has refused as log entry 14 reads it), ENCODE on the Header operand and the environment's answer alone; SB enters only into what SB holds
afterwards. Two states that agree on these, whatever else they hold, give the same readable result and status or the same
refusal. -/
def Obligations.ResultsDependOnOperandsAlone : Prop :=
  ∀ (i : Instr) (s s' : State),
    (i = .decode ∨ i.port = .header → s.ib = s'.ib → SameOutcome i s s') ∧
    (i = .dispatch ∨ i.port = .payload → s.p = s'.p →
      payloadUsable s = payloadUsable s' → SameOutcome i s s') ∧
    (i = .encode → s.operand = s'.operand → s.prependOk = s'.prependOk →
      SameOutcome i s s' ∧
      (s.sb = s'.sb → ∀ t t', exec i s = .next t → exec i s' = .next t' → t.sb = t'.sb))

/-- The first operation after reset behaves like any other (R210): a reset between operations changes no result.
What reset leaves alone is the model's
reading (log entry 20). -/
def Obligations.OperationAfterResetBehavesTheSame : Prop :=
  ∀ (i : Instr) (s u t : State) (rest : List Call), step { s with calls := .resetBlock :: rest } = .next u →
    exec i { s with calls := rest } = .next t →
    u.hdrValid = false ∧ result u = none ∧
      ∃ t' : State, exec i u = .next t' ∧ result t' = result t ∧ t'.sb = t.sb

/-! ### The boundary with the caller -/

/-- After a successful DECODE the payload view the caller passes to DISPATCH is all of the input behind the length consumed (R30,
R164). The caller's copy of the Header is the model's (log entry 14). -/
def Obligations.PayloadViewIsTheRestOfTheInput : Prop :=
  ∀ (s t : State) (rest : List Call), exec .decode s = .next t → t.hdrValid = true →
    step { t with calls := .givePayloadView :: rest } =
      .next { t with calls := rest, p := s.ib.drop t.consumedLength, payloadSource := .viewOf s.ibId }

/-- The framework's chain (R165, R104): if DECODE fails the chain stops with its error; if it succeeds, the next step runs
DISPATCH on the payload view, and if that fails the Header of the DECODE stays with the caller. How the chain is run is the
model's reading (log entry 21). -/
def Obligations.DecodeChainDispatchesThePayload : Prop :=
  ∀ (s t : State) (rest : List Call), exec .decode { s with calls := rest } = .next t →
    (t.err ≠ .ok → step { s with calls := .decodeChain :: rest } = .next t) ∧
    (t.err = .ok → ∃ u : State, step { s with calls := .decodeChain :: rest } = .next u ∧
      step u = exec .dispatch { t with p := s.ib.drop t.consumedLength, payloadSource := .viewOf s.ibId } ∧
      ∀ v : State, step u = .next v → v.heldHeader = some t.header)

/-- Handing over another buffer changes, reuses and frees none (R63, R67, R215; 95_test_vectors P4 has three at once): every buffer
provided before stands, a payload operand stays usable, and the payload view of a held Header over an earlier buffer can still be
formed and dispatched, with that buffer's bytes. The numbers of the buffers and the caller's copy are the model's (log entries 14
and 22). -/
def Obligations.EarlierBuffersKeepTheirViews : Prop :=
  ∀ (s : State) (data ib : Bytes) (c : Call) (rest : List Call), RecordInv s →
    (c = .giveInput data ∧ ib = data) ∨ (c = .giveSerializedAsInput ∧ ib = s.sb) →
    ∃ u : State, step { s with calls := c :: rest } = .next u ∧ u.ib = ib ∧ bufferBytes u u.ibId = some ib ∧ u.calls = rest ∧
      (∀ n, n ≤ s.ibId → bufferBytes u n = bufferBytes s n) ∧ payloadUsable u = payloadUsable s ∧ u.p = s.p ∧
      u.heldHeader = s.heldHeader ∧ u.heldBuffer = s.heldBuffer ∧
      (∀ h b, s.heldHeader = some h → bufferBytes s s.heldBuffer = some b →
        let v : State := { u with p := b.drop h.payload.start, payloadSource := .viewOf s.heldBuffer }
        step { u with calls := .givePayloadView :: rest } = .next v ∧
        step { u with calls := .nextLayerType :: rest } = exec .dispatch v ∧ payloadUsable v = true)

/-- A view whose buffer the caller has changed, reused or freed is not used, and no Header is read before a DECODE has returned one
(R67, R215, R49; the treatment of U5 and U13). While the buffer of the held Header's views is gone, `givePayloadView` and
`nextLayerType()` are refused; overwriting IB and releasing a buffer make that buffer gone and no other; DISPATCH and the payload
rows refuse an operand formed from a view of a buffer gone since, at every port. What is held and the numbers of the buffers are the
model's own record (log entries 14 and 22). -/
def Obligations.UnusableViewsAreRefused : Prop :=
  ∀ (s : State) (data : Bytes) (rest : List Call),
    (∀ h, s.heldHeader = some h → bufferBytes s s.heldBuffer = none →
      step { s with calls := .givePayloadView :: rest } = .refused .staleView ∧
      step { s with calls := .nextLayerType :: rest } = .refused .staleView) ∧
    (RecordInv s → ∀ (c : Call) (gone : Nat), (c = .overwriteInput data ∧ gone = s.ibId) ∨ c = .releaseBuffer gone →
      ∃ u : State, step { s with calls := c :: rest } = .next u ∧ u.calls = rest ∧
        (c = .overwriteInput data → u.ib = data) ∧
        (∀ n, n ≤ s.ibId → bufferBytes u n = if n = gone then none else bufferBytes s n) ∧
        u.heldHeader = s.heldHeader ∧ u.heldBuffer = s.heldBuffer ∧ u.p = s.p ∧
        (s.payloadSource = .viewOf gone → payloadUsable u = false) ∧
        (s.payloadSource ≠ .viewOf gone → payloadUsable u = payloadUsable s)) ∧
    (payloadUsable s = false →
      (∀ i : Instr, i = .dispatch ∨ i.port = .payload → exec i s = .refused .staleView) ∧
      step { s with calls := .command (opCode .dispatch) :: rest } = .refused .staleView ∧
      step { s with calls := .dispatchEntry :: rest } = .refused .staleView) ∧
    (s.heldHeader = none →
      step { s with calls := .givePayloadView :: rest } = .refused .noHeaderHeld ∧
      step { s with calls := .nextLayerType :: rest } = .refused .noHeaderHeld ∧
      step { s with calls := .giveDecodedHeader :: rest } = .refused .noHeaderHeld)

/-- The exposed capabilities (R168): `layerType()` is the constant tag, `canDecode()` the class of exactly that tag, and
`nextLayerType()` on a held Header whose views' buffer stands is DISPATCH on the bytes of that Header's payload view; where the view is
not empty it completes, and the tag reported is the one that corresponds to `next`. The caller's copy of the Header, and that the
view stays as the payload operand afterwards, are the model's (log entries 14 and 21). -/
def Obligations.CapabilitiesReportTheTags : Prop :=
  ∀ s : State, RecordInv s →
    layerTypeCapability s = Config.layerTypeGtpv2c ∧ canDecodeCapability s = [Config.layerTypeGtpv2c] ∧
    ∀ (h : Header) (buffer : Bytes) (rest : List Call), s.heldHeader = some h → bufferBytes s s.heldBuffer = some buffer →
      ∃ b : Bytes, viewBytes buffer h.payload = some b ∧ b.length = h.payload.len ∧
        step { s with calls := .nextLayerType :: rest } =
          exec .dispatch { s with calls := rest, p := b, payloadSource := .viewOf s.heldBuffer } ∧
        (0 < h.payload.len →
          ∃ t : State, step { s with calls := .nextLayerType :: rest } = .next t ∧
            nextLayerTag t = some (layerTagOf t.next) ∧ t.calls = rest)
end

