-- ==== Sys2Proof/Laws/State.lean ====
section
/-! SUPPORT. One lemma per field per named update of State, each true by rfl, so that no later proof unfolds a record
update; and for the updates that touch no buffer, that the buffers and the use of the payload operand stay. -/

namespace Sys2Proof.Machine

@[simp] theorem raiseError_calls (op : Op) (e : ErrorKind) (s : State) : (raiseError op e s).calls = s.calls := rfl
@[simp] theorem raiseError_ib (op : Op) (e : ErrorKind) (s : State) : (raiseError op e s).ib = s.ib := rfl
@[simp] theorem raiseError_ibId (op : Op) (e : ErrorKind) (s : State) : (raiseError op e s).ibId = s.ibId := rfl
@[simp] theorem raiseError_earlier (op : Op) (e : ErrorKind) (s : State) : (raiseError op e s).earlier = s.earlier := rfl
@[simp] theorem raiseError_sb (op : Op) (e : ErrorKind) (s : State) : (raiseError op e s).sb = s.sb := rfl
@[simp] theorem raiseError_p (op : Op) (e : ErrorKind) (s : State) : (raiseError op e s).p = s.p := rfl
@[simp] theorem raiseError_payloadSource (op : Op) (e : ErrorKind) (s : State) : (raiseError op e s).payloadSource = s.payloadSource := rfl
@[simp] theorem raiseError_operand (op : Op) (e : ErrorKind) (s : State) : (raiseError op e s).operand = s.operand := rfl
@[simp] theorem raiseError_prependOk (op : Op) (e : ErrorKind) (s : State) : (raiseError op e s).prependOk = s.prependOk := rfl
@[simp] theorem raiseError_prependLog (op : Op) (e : ErrorKind) (s : State) : (raiseError op e s).prependLog = s.prependLog := rfl
@[simp] theorem raiseError_header (op : Op) (e : ErrorKind) (s : State) : (raiseError op e s).header = s.header := rfl
@[simp] theorem raiseError_hdrValid (op : Op) (e : ErrorKind) (s : State) : (raiseError op e s).hdrValid = false := rfl
@[simp] theorem raiseError_err (op : Op) (e : ErrorKind) (s : State) : (raiseError op e s).err = .error e := rfl
@[simp] theorem raiseError_consumedLength (op : Op) (e : ErrorKind) (s : State) : (raiseError op e s).consumedLength = s.consumedLength := rfl
@[simp] theorem raiseError_next (op : Op) (e : ErrorKind) (s : State) : (raiseError op e s).next = s.next := rfl
@[simp] theorem raiseError_window (op : Op) (e : ErrorKind) (s : State) : (raiseError op e s).window = s.window := rfl
@[simp] theorem raiseError_layerType (op : Op) (e : ErrorKind) (s : State) : (raiseError op e s).layerType = s.layerType := rfl
@[simp] theorem raiseError_lastOp (op : Op) (e : ErrorKind) (s : State) : (raiseError op e s).lastOp = some op := rfl
@[simp] theorem raiseError_heldHeader (op : Op) (e : ErrorKind) (s : State) : (raiseError op e s).heldHeader = s.heldHeader := rfl
@[simp] theorem raiseError_heldBuffer (op : Op) (e : ErrorKind) (s : State) : (raiseError op e s).heldBuffer = s.heldBuffer := rfl
@[simp] theorem raiseError_bufferBytes (op : Op) (e : ErrorKind) (s : State) (buffer : Nat) : bufferBytes (raiseError op e s) buffer = bufferBytes s buffer := rfl
@[simp] theorem raiseError_payloadUsable (op : Op) (e : ErrorKind) (s : State) : payloadUsable (raiseError op e s) = payloadUsable s := rfl

@[simp] theorem returnHeader_calls (h : Header) (n : Nat) (s : State) : (returnHeader h n s).calls = s.calls := rfl
@[simp] theorem returnHeader_ib (h : Header) (n : Nat) (s : State) : (returnHeader h n s).ib = s.ib := rfl
@[simp] theorem returnHeader_ibId (h : Header) (n : Nat) (s : State) : (returnHeader h n s).ibId = s.ibId := rfl
@[simp] theorem returnHeader_earlier (h : Header) (n : Nat) (s : State) : (returnHeader h n s).earlier = s.earlier := rfl
@[simp] theorem returnHeader_sb (h : Header) (n : Nat) (s : State) : (returnHeader h n s).sb = s.sb := rfl
@[simp] theorem returnHeader_p (h : Header) (n : Nat) (s : State) : (returnHeader h n s).p = s.p := rfl
@[simp] theorem returnHeader_payloadSource (h : Header) (n : Nat) (s : State) : (returnHeader h n s).payloadSource = s.payloadSource := rfl
@[simp] theorem returnHeader_operand (h : Header) (n : Nat) (s : State) : (returnHeader h n s).operand = s.operand := rfl
@[simp] theorem returnHeader_prependOk (h : Header) (n : Nat) (s : State) : (returnHeader h n s).prependOk = s.prependOk := rfl
@[simp] theorem returnHeader_prependLog (h : Header) (n : Nat) (s : State) : (returnHeader h n s).prependLog = s.prependLog := rfl
@[simp] theorem returnHeader_header (h : Header) (n : Nat) (s : State) : (returnHeader h n s).header = h := rfl
@[simp] theorem returnHeader_hdrValid (h : Header) (n : Nat) (s : State) : (returnHeader h n s).hdrValid = true := rfl
@[simp] theorem returnHeader_err (h : Header) (n : Nat) (s : State) : (returnHeader h n s).err = .ok := rfl
@[simp] theorem returnHeader_consumedLength (h : Header) (n : Nat) (s : State) : (returnHeader h n s).consumedLength = n := rfl
@[simp] theorem returnHeader_next (h : Header) (n : Nat) (s : State) : (returnHeader h n s).next = s.next := rfl
@[simp] theorem returnHeader_window (h : Header) (n : Nat) (s : State) : (returnHeader h n s).window = s.window := rfl
@[simp] theorem returnHeader_layerType (h : Header) (n : Nat) (s : State) : (returnHeader h n s).layerType = s.layerType := rfl
@[simp] theorem returnHeader_lastOp (h : Header) (n : Nat) (s : State) : (returnHeader h n s).lastOp = some .decode := rfl
@[simp] theorem returnHeader_heldHeader (h : Header) (n : Nat) (s : State) : (returnHeader h n s).heldHeader = some h := rfl
@[simp] theorem returnHeader_heldBuffer (h : Header) (n : Nat) (s : State) : (returnHeader h n s).heldBuffer = s.ibId := rfl
@[simp] theorem returnHeader_bufferBytes (h : Header) (n : Nat) (s : State) (buffer : Nat) : bufferBytes (returnHeader h n s) buffer = bufferBytes s buffer := rfl
@[simp] theorem returnHeader_payloadUsable (h : Header) (n : Nat) (s : State) : payloadUsable (returnHeader h n s) = payloadUsable s := rfl

@[simp] theorem returnWindow_calls (w : Bytes) (s : State) : (returnWindow w s).calls = s.calls := rfl
@[simp] theorem returnWindow_ib (w : Bytes) (s : State) : (returnWindow w s).ib = s.ib := rfl
@[simp] theorem returnWindow_ibId (w : Bytes) (s : State) : (returnWindow w s).ibId = s.ibId := rfl
@[simp] theorem returnWindow_earlier (w : Bytes) (s : State) : (returnWindow w s).earlier = s.earlier := rfl
@[simp] theorem returnWindow_sb (w : Bytes) (s : State) : (returnWindow w s).sb = w ++ s.sb := rfl
@[simp] theorem returnWindow_p (w : Bytes) (s : State) : (returnWindow w s).p = s.p := rfl
@[simp] theorem returnWindow_payloadSource (w : Bytes) (s : State) : (returnWindow w s).payloadSource = s.payloadSource := rfl
@[simp] theorem returnWindow_operand (w : Bytes) (s : State) : (returnWindow w s).operand = s.operand := rfl
@[simp] theorem returnWindow_prependOk (w : Bytes) (s : State) : (returnWindow w s).prependOk = s.prependOk := rfl
@[simp] theorem returnWindow_prependLog (w : Bytes) (s : State) : (returnWindow w s).prependLog = s.prependLog := rfl
@[simp] theorem returnWindow_header (w : Bytes) (s : State) : (returnWindow w s).header = s.header := rfl
@[simp] theorem returnWindow_hdrValid (w : Bytes) (s : State) : (returnWindow w s).hdrValid = false := rfl
@[simp] theorem returnWindow_err (w : Bytes) (s : State) : (returnWindow w s).err = .ok := rfl
@[simp] theorem returnWindow_consumedLength (w : Bytes) (s : State) : (returnWindow w s).consumedLength = s.consumedLength := rfl
@[simp] theorem returnWindow_next (w : Bytes) (s : State) : (returnWindow w s).next = s.next := rfl
@[simp] theorem returnWindow_window (w : Bytes) (s : State) : (returnWindow w s).window = w := rfl
@[simp] theorem returnWindow_layerType (w : Bytes) (s : State) : (returnWindow w s).layerType = s.layerType := rfl
@[simp] theorem returnWindow_lastOp (w : Bytes) (s : State) : (returnWindow w s).lastOp = some .encode := rfl
@[simp] theorem returnWindow_heldHeader (w : Bytes) (s : State) : (returnWindow w s).heldHeader = s.heldHeader := rfl
@[simp] theorem returnWindow_heldBuffer (w : Bytes) (s : State) : (returnWindow w s).heldBuffer = s.heldBuffer := rfl
@[simp] theorem returnWindow_bufferBytes (w : Bytes) (s : State) (buffer : Nat) : bufferBytes (returnWindow w s) buffer = bufferBytes s buffer := rfl
@[simp] theorem returnWindow_payloadUsable (w : Bytes) (s : State) : payloadUsable (returnWindow w s) = payloadUsable s := rfl

@[simp] theorem returnNext_calls (n : NextProtocol) (s : State) : (returnNext n s).calls = s.calls := rfl
@[simp] theorem returnNext_ib (n : NextProtocol) (s : State) : (returnNext n s).ib = s.ib := rfl
@[simp] theorem returnNext_ibId (n : NextProtocol) (s : State) : (returnNext n s).ibId = s.ibId := rfl
@[simp] theorem returnNext_earlier (n : NextProtocol) (s : State) : (returnNext n s).earlier = s.earlier := rfl
@[simp] theorem returnNext_sb (n : NextProtocol) (s : State) : (returnNext n s).sb = s.sb := rfl
@[simp] theorem returnNext_p (n : NextProtocol) (s : State) : (returnNext n s).p = s.p := rfl
@[simp] theorem returnNext_payloadSource (n : NextProtocol) (s : State) : (returnNext n s).payloadSource = s.payloadSource := rfl
@[simp] theorem returnNext_operand (n : NextProtocol) (s : State) : (returnNext n s).operand = s.operand := rfl
@[simp] theorem returnNext_prependOk (n : NextProtocol) (s : State) : (returnNext n s).prependOk = s.prependOk := rfl
@[simp] theorem returnNext_prependLog (n : NextProtocol) (s : State) : (returnNext n s).prependLog = s.prependLog := rfl
@[simp] theorem returnNext_header (n : NextProtocol) (s : State) : (returnNext n s).header = s.header := rfl
@[simp] theorem returnNext_hdrValid (n : NextProtocol) (s : State) : (returnNext n s).hdrValid = false := rfl
@[simp] theorem returnNext_err (n : NextProtocol) (s : State) : (returnNext n s).err = .ok := rfl
@[simp] theorem returnNext_consumedLength (n : NextProtocol) (s : State) : (returnNext n s).consumedLength = s.consumedLength := rfl
@[simp] theorem returnNext_next (n : NextProtocol) (s : State) : (returnNext n s).next = n := rfl
@[simp] theorem returnNext_window (n : NextProtocol) (s : State) : (returnNext n s).window = s.window := rfl
@[simp] theorem returnNext_layerType (n : NextProtocol) (s : State) : (returnNext n s).layerType = s.layerType := rfl
@[simp] theorem returnNext_lastOp (n : NextProtocol) (s : State) : (returnNext n s).lastOp = some .dispatch := rfl
@[simp] theorem returnNext_heldHeader (n : NextProtocol) (s : State) : (returnNext n s).heldHeader = s.heldHeader := rfl
@[simp] theorem returnNext_heldBuffer (n : NextProtocol) (s : State) : (returnNext n s).heldBuffer = s.heldBuffer := rfl
@[simp] theorem returnNext_bufferBytes (n : NextProtocol) (s : State) (buffer : Nat) : bufferBytes (returnNext n s) buffer = bufferBytes s buffer := rfl
@[simp] theorem returnNext_payloadUsable (n : NextProtocol) (s : State) : payloadUsable (returnNext n s) = payloadUsable s := rfl

@[simp] theorem notePrepend_calls (n : Nat) (s : State) : (notePrepend n s).calls = s.calls := rfl
@[simp] theorem notePrepend_ib (n : Nat) (s : State) : (notePrepend n s).ib = s.ib := rfl
@[simp] theorem notePrepend_ibId (n : Nat) (s : State) : (notePrepend n s).ibId = s.ibId := rfl
@[simp] theorem notePrepend_earlier (n : Nat) (s : State) : (notePrepend n s).earlier = s.earlier := rfl
@[simp] theorem notePrepend_sb (n : Nat) (s : State) : (notePrepend n s).sb = s.sb := rfl
@[simp] theorem notePrepend_p (n : Nat) (s : State) : (notePrepend n s).p = s.p := rfl
@[simp] theorem notePrepend_payloadSource (n : Nat) (s : State) : (notePrepend n s).payloadSource = s.payloadSource := rfl
@[simp] theorem notePrepend_operand (n : Nat) (s : State) : (notePrepend n s).operand = s.operand := rfl
@[simp] theorem notePrepend_prependOk (n : Nat) (s : State) : (notePrepend n s).prependOk = s.prependOk := rfl
@[simp] theorem notePrepend_prependLog (n : Nat) (s : State) : (notePrepend n s).prependLog = n :: s.prependLog := rfl
@[simp] theorem notePrepend_header (n : Nat) (s : State) : (notePrepend n s).header = s.header := rfl
@[simp] theorem notePrepend_hdrValid (n : Nat) (s : State) : (notePrepend n s).hdrValid = s.hdrValid := rfl
@[simp] theorem notePrepend_err (n : Nat) (s : State) : (notePrepend n s).err = s.err := rfl
@[simp] theorem notePrepend_consumedLength (n : Nat) (s : State) : (notePrepend n s).consumedLength = s.consumedLength := rfl
@[simp] theorem notePrepend_next (n : Nat) (s : State) : (notePrepend n s).next = s.next := rfl
@[simp] theorem notePrepend_window (n : Nat) (s : State) : (notePrepend n s).window = s.window := rfl
@[simp] theorem notePrepend_layerType (n : Nat) (s : State) : (notePrepend n s).layerType = s.layerType := rfl
@[simp] theorem notePrepend_lastOp (n : Nat) (s : State) : (notePrepend n s).lastOp = s.lastOp := rfl
@[simp] theorem notePrepend_heldHeader (n : Nat) (s : State) : (notePrepend n s).heldHeader = s.heldHeader := rfl
@[simp] theorem notePrepend_heldBuffer (n : Nat) (s : State) : (notePrepend n s).heldBuffer = s.heldBuffer := rfl
@[simp] theorem notePrepend_bufferBytes (n : Nat) (s : State) (buffer : Nat) : bufferBytes (notePrepend n s) buffer = bufferBytes s buffer := rfl
@[simp] theorem notePrepend_payloadUsable (n : Nat) (s : State) : payloadUsable (notePrepend n s) = payloadUsable s := rfl

@[simp] theorem setPayload_calls (src : PayloadSource) (b : Bytes) (s : State) : (setPayload src b s).calls = s.calls := rfl
@[simp] theorem setPayload_ib (src : PayloadSource) (b : Bytes) (s : State) : (setPayload src b s).ib = s.ib := rfl
@[simp] theorem setPayload_ibId (src : PayloadSource) (b : Bytes) (s : State) : (setPayload src b s).ibId = s.ibId := rfl
@[simp] theorem setPayload_earlier (src : PayloadSource) (b : Bytes) (s : State) : (setPayload src b s).earlier = s.earlier := rfl
@[simp] theorem setPayload_sb (src : PayloadSource) (b : Bytes) (s : State) : (setPayload src b s).sb = s.sb := rfl
@[simp] theorem setPayload_p (src : PayloadSource) (b : Bytes) (s : State) : (setPayload src b s).p = b := rfl
@[simp] theorem setPayload_payloadSource (src : PayloadSource) (b : Bytes) (s : State) : (setPayload src b s).payloadSource = src := rfl
@[simp] theorem setPayload_operand (src : PayloadSource) (b : Bytes) (s : State) : (setPayload src b s).operand = s.operand := rfl
@[simp] theorem setPayload_prependOk (src : PayloadSource) (b : Bytes) (s : State) : (setPayload src b s).prependOk = s.prependOk := rfl
@[simp] theorem setPayload_prependLog (src : PayloadSource) (b : Bytes) (s : State) : (setPayload src b s).prependLog = s.prependLog := rfl
@[simp] theorem setPayload_header (src : PayloadSource) (b : Bytes) (s : State) : (setPayload src b s).header = s.header := rfl
@[simp] theorem setPayload_hdrValid (src : PayloadSource) (b : Bytes) (s : State) : (setPayload src b s).hdrValid = s.hdrValid := rfl
@[simp] theorem setPayload_err (src : PayloadSource) (b : Bytes) (s : State) : (setPayload src b s).err = s.err := rfl
@[simp] theorem setPayload_consumedLength (src : PayloadSource) (b : Bytes) (s : State) : (setPayload src b s).consumedLength = s.consumedLength := rfl
@[simp] theorem setPayload_next (src : PayloadSource) (b : Bytes) (s : State) : (setPayload src b s).next = s.next := rfl
@[simp] theorem setPayload_window (src : PayloadSource) (b : Bytes) (s : State) : (setPayload src b s).window = s.window := rfl
@[simp] theorem setPayload_layerType (src : PayloadSource) (b : Bytes) (s : State) : (setPayload src b s).layerType = s.layerType := rfl
@[simp] theorem setPayload_lastOp (src : PayloadSource) (b : Bytes) (s : State) : (setPayload src b s).lastOp = s.lastOp := rfl
@[simp] theorem setPayload_heldHeader (src : PayloadSource) (b : Bytes) (s : State) : (setPayload src b s).heldHeader = s.heldHeader := rfl
@[simp] theorem setPayload_heldBuffer (src : PayloadSource) (b : Bytes) (s : State) : (setPayload src b s).heldBuffer = s.heldBuffer := rfl
@[simp] theorem setPayload_bufferBytes (src : PayloadSource) (b : Bytes) (s : State) (buffer : Nat) : bufferBytes (setPayload src b s) buffer = bufferBytes s buffer := rfl

@[simp] theorem giveInput_calls (data : Bytes) (s : State) : (giveInput data s).calls = s.calls := rfl
@[simp] theorem giveInput_ib (data : Bytes) (s : State) : (giveInput data s).ib = data := rfl
@[simp] theorem giveInput_ibId (data : Bytes) (s : State) : (giveInput data s).ibId = s.ibId + 1 := rfl
@[simp] theorem giveInput_earlier (data : Bytes) (s : State) : (giveInput data s).earlier = liveBuffers s := rfl
@[simp] theorem giveInput_sb (data : Bytes) (s : State) : (giveInput data s).sb = s.sb := rfl
@[simp] theorem giveInput_p (data : Bytes) (s : State) : (giveInput data s).p = s.p := rfl
@[simp] theorem giveInput_payloadSource (data : Bytes) (s : State) : (giveInput data s).payloadSource = s.payloadSource := rfl
@[simp] theorem giveInput_operand (data : Bytes) (s : State) : (giveInput data s).operand = s.operand := rfl
@[simp] theorem giveInput_prependOk (data : Bytes) (s : State) : (giveInput data s).prependOk = s.prependOk := rfl
@[simp] theorem giveInput_prependLog (data : Bytes) (s : State) : (giveInput data s).prependLog = s.prependLog := rfl
@[simp] theorem giveInput_header (data : Bytes) (s : State) : (giveInput data s).header = s.header := rfl
@[simp] theorem giveInput_hdrValid (data : Bytes) (s : State) : (giveInput data s).hdrValid = s.hdrValid := rfl
@[simp] theorem giveInput_err (data : Bytes) (s : State) : (giveInput data s).err = s.err := rfl
@[simp] theorem giveInput_consumedLength (data : Bytes) (s : State) : (giveInput data s).consumedLength = s.consumedLength := rfl
@[simp] theorem giveInput_next (data : Bytes) (s : State) : (giveInput data s).next = s.next := rfl
@[simp] theorem giveInput_window (data : Bytes) (s : State) : (giveInput data s).window = s.window := rfl
@[simp] theorem giveInput_layerType (data : Bytes) (s : State) : (giveInput data s).layerType = s.layerType := rfl
@[simp] theorem giveInput_lastOp (data : Bytes) (s : State) : (giveInput data s).lastOp = s.lastOp := rfl
@[simp] theorem giveInput_heldHeader (data : Bytes) (s : State) : (giveInput data s).heldHeader = s.heldHeader := rfl
@[simp] theorem giveInput_heldBuffer (data : Bytes) (s : State) : (giveInput data s).heldBuffer = s.heldBuffer := rfl

@[simp] theorem overwriteInput_calls (data : Bytes) (s : State) : (overwriteInput data s).calls = s.calls := rfl
@[simp] theorem overwriteInput_ib (data : Bytes) (s : State) : (overwriteInput data s).ib = data := rfl
@[simp] theorem overwriteInput_ibId (data : Bytes) (s : State) : (overwriteInput data s).ibId = s.ibId + 1 := rfl
@[simp] theorem overwriteInput_earlier (data : Bytes) (s : State) : (overwriteInput data s).earlier = s.earlier := rfl
@[simp] theorem overwriteInput_sb (data : Bytes) (s : State) : (overwriteInput data s).sb = s.sb := rfl
@[simp] theorem overwriteInput_p (data : Bytes) (s : State) : (overwriteInput data s).p = s.p := rfl
@[simp] theorem overwriteInput_payloadSource (data : Bytes) (s : State) : (overwriteInput data s).payloadSource = s.payloadSource := rfl
@[simp] theorem overwriteInput_operand (data : Bytes) (s : State) : (overwriteInput data s).operand = s.operand := rfl
@[simp] theorem overwriteInput_prependOk (data : Bytes) (s : State) : (overwriteInput data s).prependOk = s.prependOk := rfl
@[simp] theorem overwriteInput_prependLog (data : Bytes) (s : State) : (overwriteInput data s).prependLog = s.prependLog := rfl
@[simp] theorem overwriteInput_header (data : Bytes) (s : State) : (overwriteInput data s).header = s.header := rfl
@[simp] theorem overwriteInput_hdrValid (data : Bytes) (s : State) : (overwriteInput data s).hdrValid = s.hdrValid := rfl
@[simp] theorem overwriteInput_err (data : Bytes) (s : State) : (overwriteInput data s).err = s.err := rfl
@[simp] theorem overwriteInput_consumedLength (data : Bytes) (s : State) : (overwriteInput data s).consumedLength = s.consumedLength := rfl
@[simp] theorem overwriteInput_next (data : Bytes) (s : State) : (overwriteInput data s).next = s.next := rfl
@[simp] theorem overwriteInput_window (data : Bytes) (s : State) : (overwriteInput data s).window = s.window := rfl
@[simp] theorem overwriteInput_layerType (data : Bytes) (s : State) : (overwriteInput data s).layerType = s.layerType := rfl
@[simp] theorem overwriteInput_lastOp (data : Bytes) (s : State) : (overwriteInput data s).lastOp = s.lastOp := rfl
@[simp] theorem overwriteInput_heldHeader (data : Bytes) (s : State) : (overwriteInput data s).heldHeader = s.heldHeader := rfl
@[simp] theorem overwriteInput_heldBuffer (data : Bytes) (s : State) : (overwriteInput data s).heldBuffer = s.heldBuffer := rfl

@[simp] theorem resetRecord_calls (s : State) : (resetRecord s).calls = s.calls := rfl
@[simp] theorem resetRecord_ib (s : State) : (resetRecord s).ib = s.ib := rfl
@[simp] theorem resetRecord_ibId (s : State) : (resetRecord s).ibId = s.ibId := rfl
@[simp] theorem resetRecord_earlier (s : State) : (resetRecord s).earlier = s.earlier := rfl
@[simp] theorem resetRecord_sb (s : State) : (resetRecord s).sb = s.sb := rfl
@[simp] theorem resetRecord_p (s : State) : (resetRecord s).p = s.p := rfl
@[simp] theorem resetRecord_payloadSource (s : State) : (resetRecord s).payloadSource = s.payloadSource := rfl
@[simp] theorem resetRecord_operand (s : State) : (resetRecord s).operand = s.operand := rfl
@[simp] theorem resetRecord_prependOk (s : State) : (resetRecord s).prependOk = s.prependOk := rfl
@[simp] theorem resetRecord_prependLog (s : State) : (resetRecord s).prependLog = s.prependLog := rfl
@[simp] theorem resetRecord_header (s : State) : (resetRecord s).header = Header.zeros := rfl
@[simp] theorem resetRecord_hdrValid (s : State) : (resetRecord s).hdrValid = false := rfl
@[simp] theorem resetRecord_err (s : State) : (resetRecord s).err = .ok := rfl
@[simp] theorem resetRecord_consumedLength (s : State) : (resetRecord s).consumedLength = 0 := rfl
@[simp] theorem resetRecord_next (s : State) : (resetRecord s).next = .ipv4 := rfl
@[simp] theorem resetRecord_window (s : State) : (resetRecord s).window = [] := rfl
@[simp] theorem resetRecord_layerType (s : State) : (resetRecord s).layerType = Sys2Proof.Config.layerTypeGtpv2c := rfl
@[simp] theorem resetRecord_lastOp (s : State) : (resetRecord s).lastOp = none := rfl
@[simp] theorem resetRecord_heldHeader (s : State) : (resetRecord s).heldHeader = s.heldHeader := rfl
@[simp] theorem resetRecord_heldBuffer (s : State) : (resetRecord s).heldBuffer = s.heldBuffer := rfl
@[simp] theorem resetRecord_bufferBytes (s : State) (buffer : Nat) : bufferBytes (resetRecord s) buffer = bufferBytes s buffer := rfl
@[simp] theorem resetRecord_payloadUsable (s : State) : payloadUsable (resetRecord s) = payloadUsable s := rfl

@[simp] theorem calls_bufferBytes (s : State) (c : List Call) (buffer : Nat) :
    bufferBytes { s with calls := c } buffer = bufferBytes s buffer := rfl
@[simp] theorem calls_payloadUsable (s : State) (c : List Call) : payloadUsable { s with calls := c } = payloadUsable s := rfl

end Sys2Proof.Machine
end

