-- ==== Sys2Proof/Laws/Ops.lean ====
section
/-! SUPPORT. For each shared operation, what it can do, said once. -/

namespace Sys2Proof.Machine

/-! ### Reading -/

theorem memRead_eq_some {b : Bytes} {off n v : Nat} :
    memRead b off n = some v ↔ off + n ≤ b.length ∧ v = bigEndian ((b.drop off).take n) := by
  unfold memRead
  split <;> simp_all [eq_comm]

theorem memRead_eq_none {b : Bytes} {off n : Nat} : memRead b off n = none ↔ b.length < off + n := by
  unfold memRead
  split <;> simp_all

theorem bigEndian_append_singleton (b : Bytes) (x : Byte) : bigEndian (b ++ [x]) = bigEndian b * 256 + x.toNat := by
  simp [bigEndian]

theorem bigEndian_lt (b : Bytes) : bigEndian b < 256 ^ b.length := by
  induction b using List.reverseRecOn with
  | nil => simp [bigEndian]
  | append_singleton b x ih =>
    have hx := x.isLt
    rw [bigEndian_append_singleton, List.length_append, List.length_singleton, pow_succ]
    omega

/-- A one-byte read is the byte. -/
theorem memRead_byte {b : Bytes} {off : Nat} {x : Byte} (h : b[off]? = some x) : memRead b off 1 = some x.toNat := by
  have hlt : off < b.length := (List.getElem?_eq_some_iff.mp h).1
  rw [memRead_eq_some]
  refine ⟨hlt, ?_⟩
  have : (b.drop off).take 1 = [x] := by
    rw [List.drop_eq_getElem_cons hlt, List.take_succ_cons, List.take_zero, (List.getElem?_eq_some_iff.mp h).2]
  simp [this, bigEndian]

/-! ### Writing -/

@[simp] theorem bigEndianBytes_length (n v : Nat) : (bigEndianBytes n v).length = n := by
  induction n with
  | zero => rfl
  | succ n ih => simp [bigEndianBytes, ih]

/-- A write keeps the window's length, stores the value's bytes, and leaves every other byte alone. -/
theorem memWrite_spec {w w' : Bytes} {off n v : Nat} (h : memWrite w off n v = some w') :
    off + n ≤ w.length ∧ w'.length = w.length ∧ (w'.drop off).take n = bigEndianBytes n v ∧
      ∀ k, k < off ∨ off + n ≤ k → readByte w' k = readByte w k := by
  unfold memWrite at h
  split at h
  · rename_i hb
    obtain rfl := Option.some.inj h
    have hoff : min off w.length = off := by omega
    refine ⟨hb, by simp; omega, ?_, ?_⟩
    · rw [List.append_assoc, List.drop_append_of_le_length (by simp [hoff]), List.drop_eq_nil_of_le (by simp [hoff]),
        List.nil_append, List.take_append_of_le_length (by simp), List.take_of_length_le (by simp)]
    · rintro k (hk | hk)
      · simp only [readByte, List.append_assoc]
        rw [List.getElem?_append_left (by simp; omega), List.getElem?_take_of_lt hk]
      · simp only [readByte]
        rw [List.getElem?_append_right (by simp; omega), List.getElem?_drop]
        congr 1
        simp [hoff]
        omega
  · cases h

theorem memWrite_isSome {w : Bytes} {off n : Nat} (v : Nat) (h : off + n ≤ w.length) : (memWrite w off n v).isSome := by
  simp [memWrite, h]

/-! ### The serialize buffer -/

theorem prependBytes_eq_none {n : Nat} {s : State} : prependBytes n s = none ↔ s.prependOk = false := by
  cases h : s.prependOk <;> simp [prependBytes, h]

/-- A window that was given has the size asked for, and its content is the free value. -/
theorem prependBytes_eq_some {n : Nat} {s : State} {w : Bytes} :
    prependBytes n s = some w ↔
      s.prependOk = true ∧ w = (List.range n).map (Sys2Proof.Config.freshByte s.prependLog.length) := by
  cases h : s.prependOk <;> simp [prependBytes, h, eq_comm]

theorem prependBytes_length {n : Nat} {s : State} {w : Bytes} (h : prependBytes n s = some w) : w.length = n := by
  rw [(prependBytes_eq_some.mp h).2]
  simp

/-! ### Operand fields -/

@[simp] theorem withPayload_stale {s : State} (h : payloadUsable s = false)
    (k : Bytes → Host.Outcome State Fault Refusal) : withPayload s k = .refused .staleView := by
  simp [withPayload, h]

@[simp] theorem withPayload_usable {s : State} (h : payloadUsable s = true)
    (k : Bytes → Host.Outcome State Fault Refusal) : withPayload s k = k s.p := by
  simp [withPayload, h]

@[simp] theorem payloadUsable_callerBytes {s : State} (h : s.payloadSource = .callerBytes) : payloadUsable s = true := by
  simp [payloadUsable, h]

theorem payloadUsable_viewOf {s : State} {buffer : Nat} (h : s.payloadSource = .viewOf buffer) :
    payloadUsable s = (bufferBytes s buffer).isSome := by
  simp [payloadUsable, h]

theorem lookup_cons_eq (k n : Nat) (v : Bytes) (l : List (Nat × Bytes)) :
    ((k, v) :: l).lookup n = if n = k then some v else l.lookup n := by
  by_cases h : n = k
  · simp [h]
  · have : (n == k) = false := by simpa using h
    rw [List.lookup_cons, this, if_neg h]

/-- A buffer is IB or one provided before. -/
theorem bufferBytes_eq (s : State) (buffer : Nat) :
    bufferBytes s buffer = if buffer = s.ibId then some s.ib else s.earlier.lookup buffer :=
  lookup_cons_eq _ _ _ _

/-- IB stands under its own number. -/
@[simp] theorem bufferBytes_ibId (s : State) : bufferBytes s s.ibId = some s.ib := by
  simp [bufferBytes_eq]

@[simp] theorem readField_some {α : Type} (f : HeaderField) (v : α) : readField f (some v) = .ok v := rfl

@[simp] theorem readField_none {α : Type} (f : HeaderField) : readField f (none : Option α) = .error f := rfl

/-- The fields are read exactly when the caller set each one that is read; `teid` counts only when T is set. -/
theorem readEncodeFields_eq_ok {h : HeaderOperand} {t : Bool} {f : EncodeFields} :
    readEncodeFields h t = .ok f ↔
      h.version = some f.version ∧ h.piggybackingFlag = some f.piggybackingFlag ∧
      h.messageType = some f.messageType ∧ h.messageLength = some f.messageLength ∧
      (if t then h.teid = some f.teid else f.teid = 0) ∧ h.sequenceNumber = some f.sequenceNumber := by
  obtain ⟨v, p, tf, mt, ml, tid, seq, c, pl⟩ := h
  obtain ⟨fv, fp, fmt, fml, ftid, fseq⟩ := f
  unfold readEncodeFields
  rcases v with _ | v
  · simp
  rcases p with _ | p
  · simp
  rcases mt with _ | mt
  · simp
  rcases ml with _ | ml
  · simp
  rcases seq with _ | seq
  · cases t <;> cases tid <;> simp
  cases t <;> cases tid <;> simp <;> (intros; exact eq_comm)

/-! ### Views and buffers -/

theorem viewBytes_eq_some {b : Bytes} {v : View} {x : Bytes} :
    viewBytes b v = some x ↔ v.start + v.len ≤ b.length ∧ x = (b.drop v.start).take v.len := by
  unfold viewBytes
  split <;> simp_all [eq_comm]

/-- A buffer's cells are in canonical form, whatever operation made the buffer. -/
theorem bufferCells_wf (b : Bytes) : Memory.wf (bufferCells b) = true := by
  have h : ∀ (b : Bytes) (k : Nat), ((b.zipIdx k).map fun x => (x.2, x.1)).Pairwise fun x y => x.1 < y.1 := by
    intro b
    induction b with
    | nil => intro k; simp
    | cons x b ih =>
      intro k
      simp only [List.zipIdx_cons, List.map_cons, List.pairwise_cons]
      refine ⟨?_, ih (k + 1)⟩
      intro y hy
      obtain ⟨z, hz, rfl⟩ := List.mem_map.mp hy
      have := List.le_snd_of_mem_zipIdx hz
      simpa using this
  exact decide_eq_true (h b 0)

end Sys2Proof.Machine
end

