-- ==== Sys2Proof/Laws/Calls.lean ====
section
/-! SUPPORT. What the shared operations of the rows and of the caller's moves can do, said once. -/

namespace Sys2Proof.Machine

/-- A header row either finds its buffer cut short or returns its fields with views that split the buffer. -/
theorem acceptHeader_cases (n : Nat) (fields : Header) (s : State) :
    (s.ib.length < n ∧ acceptHeader n fields s = raiseError .decode .truncatedHeader s) ∨
    (n ≤ s.ib.length ∧ acceptHeader n fields s =
      returnHeader { fields with contents := { start := 0, len := n }
                                 payload := { start := n, len := s.ib.length - n } } n s) := by
  unfold acceptHeader
  split
  · left; exact ⟨by assumption, rfl⟩
  · right; exact ⟨by omega, rfl⟩

/-- A payload row finds a stale view, or no payload, or returns its protocol. -/
theorem classifyAs_cases (n : NextProtocol) (s : State) :
    (payloadUsable s = false ∧ classifyAs n s = .refused .staleView) ∨
    (payloadUsable s = true ∧ s.p = [] ∧ classifyAs n s = .next (raiseError .dispatch .emptyPayload s)) ∨
    (payloadUsable s = true ∧ s.p ≠ [] ∧ classifyAs n s = .next (returnNext n s)) := by
  cases h : payloadUsable s <;> by_cases hp : s.p = [] <;> simp [classifyAs, h, hp]

theorem withHeldHeader_eq_next {s t : State} {k : Header → Host.Outcome State Fault Refusal}
    (h : withHeldHeader s k = .next t) : ∃ hd, s.heldHeader = some hd ∧ k hd = .next t := by
  unfold withHeldHeader at h
  split at h
  · cases h
  · exact ⟨_, by assumption, h⟩

/-- The payload view is used only when a Header is held, its buffer stands and has the view's bytes. -/
theorem withPayloadView_eq_next {s t : State} {k : State → Host.Outcome State Fault Refusal}
    (h : withPayloadView s k = .next t) :
    ∃ hd buffer bytes, s.heldHeader = some hd ∧ bufferBytes s s.heldBuffer = some buffer ∧
      viewBytes buffer hd.payload = some bytes ∧ k (setPayload (.viewOf s.heldBuffer) bytes s) = .next t := by
  obtain ⟨hd, hh, hk⟩ := withHeldHeader_eq_next h
  split at hk
  · cases hk
  · split at hk
    · exact ⟨hd, _, _, hh, by assumption, by assumption, hk⟩
    · cases hk

theorem withPayloadView_live {s : State} {hd : Header} {buffer bytes : Bytes} (hh : s.heldHeader = some hd)
    (hb : bufferBytes s s.heldBuffer = some buffer) (hv : viewBytes buffer hd.payload = some bytes)
    (k : State → Host.Outcome State Fault Refusal) :
    withPayloadView s k = k (setPayload (.viewOf s.heldBuffer) bytes s) := by
  simp only [withPayloadView, withHeldHeader, hh, hb, hv]

theorem withPayloadView_gone {s : State} {hd : Header} (hh : s.heldHeader = some hd)
    (hb : bufferBytes s s.heldBuffer = none) (k : State → Host.Outcome State Fault Refusal) :
    withPayloadView s k = .refused .staleView := by
  simp only [withPayloadView, withHeldHeader, hh, hb]

/-- Providing another buffer leaves every buffer provided so far as it is. -/
theorem bufferBytes_giveInput {s : State} {buffer : Nat} (data : Bytes) (h : buffer ≤ s.ibId) :
    bufferBytes (giveInput data s) buffer = bufferBytes s buffer := by
  have : ¬ buffer = s.ibId + 1 := by omega
  rw [bufferBytes_eq, giveInput_ibId, if_neg this]
  rfl

theorem lookup_none_of_lt {l : List (Nat × Bytes)} {n : Nat} (h : ∀ e ∈ l, e.1 < n) : l.lookup n = none := by
  rw [List.lookup_eq_none_iff]
  intro e he
  have := h e he
  simp; omega

/-- With the numbers in order, overwriting IB removes IB's old number alone. -/
theorem bufferBytes_overwriteInput {s : State} {buffer : Nat} (data : Bytes)
    (ordered : ((liveBuffers s).map (·.1)).Pairwise (· > ·)) (h : buffer ≤ s.ibId) :
    bufferBytes (overwriteInput data s) buffer = if buffer = s.ibId then none else bufferBytes s buffer := by
  have h1 : ¬ buffer = s.ibId + 1 := by omega
  have hlt : ∀ e ∈ s.earlier, e.1 < s.ibId := by
    simp only [liveBuffers, List.map_cons, List.pairwise_cons, List.mem_map] at ordered
    exact fun e he => ordered.1 e.1 ⟨e, he, rfl⟩
  by_cases hb : buffer = s.ibId
  · subst hb
    simp [bufferBytes_eq, lookup_none_of_lt hlt]
  · simp [bufferBytes_eq, h1, hb]

theorem lookup_filter_ne (l : List (Nat × Bytes)) (b n : Nat) :
    (l.filter (fun e => e.1 != b)).lookup n = if n = b then none else l.lookup n := by
  induction l with
  | nil => simp
  | cons e l ih =>
    obtain ⟨k, v⟩ := e
    rw [List.filter_cons, lookup_cons_eq]
    by_cases hk : k = b
    · rw [if_neg (by simp [hk]), ih]
      by_cases hn : n = b
      · rw [if_pos hn, if_pos hn]
      · rw [if_neg hn, if_neg hn, if_neg (fun h => hn (h.trans hk))]
    · rw [if_pos (by simpa using hk), lookup_cons_eq, ih]
      by_cases hn : n = k
      · rw [if_pos hn, if_neg (fun h => hk (hn.symm.trans h)), if_pos hn]
      · rw [if_neg hn, if_neg hn]

/-- With the numbers in order, releasing a buffer removes its number alone. -/
theorem bufferBytes_releaseBuffer {s : State} {buffer released : Nat}
    (ordered : ((liveBuffers s).map (·.1)).Pairwise (· > ·)) (h : buffer ≤ s.ibId) :
    bufferBytes (releaseBuffer released s) buffer = if buffer = released then none else bufferBytes s buffer := by
  unfold releaseBuffer
  split
  · rename_i e; subst e; exact bufferBytes_overwriteInput [] ordered h
  · rename_i e
    by_cases hb : buffer = s.ibId
    · subst hb
      have : ¬ s.ibId = released := fun h => e h.symm
      simp [bufferBytes_eq, this]
    · simp [bufferBytes_eq, hb, lookup_filter_ne]

/-- The numbers stay in order under each of the three. -/
theorem liveBuffers_ordered {s t : State} (ordered : ((liveBuffers s).map (·.1)).Pairwise (· > ·))
    (h : (∃ data, t = giveInput data s) ∨ (∃ data, t = overwriteInput data s) ∨ ∃ b, t = releaseBuffer b s) :
    ((liveBuffers t).map (·.1)).Pairwise (· > ·) := by
  have hle : ∀ e ∈ s.earlier, e.1 < s.ibId := by
    simp only [liveBuffers, List.map_cons, List.pairwise_cons, List.mem_map] at ordered
    exact fun e he => ordered.1 e.1 ⟨e, he, rfl⟩
  have htl : (s.earlier.map (·.1)).Pairwise (· > ·) := by
    simp only [liveBuffers, List.map_cons, List.pairwise_cons] at ordered
    exact ordered.2
  have overwritten : ∀ data, ((liveBuffers (overwriteInput data s)).map (·.1)).Pairwise (· > ·) := by
    intro data
    simp only [liveBuffers, overwriteInput_ibId, overwriteInput_earlier, List.map_cons, List.pairwise_cons, List.mem_map]
    refine ⟨?_, htl⟩
    rintro _ ⟨e, he, rfl⟩
    have := hle e he; omega
  rcases h with ⟨data, rfl⟩ | ⟨data, rfl⟩ | ⟨b, rfl⟩
  · rw [show liveBuffers (giveInput data s) = (s.ibId + 1, data) :: liveBuffers s from rfl, List.map_cons, List.pairwise_cons]
    refine ⟨?_, ordered⟩
    simp only [liveBuffers, List.map_cons, List.mem_cons, List.mem_map]
    rintro _ (rfl | ⟨e, he, rfl⟩)
    · omega
    · have := hle e he; omega
  · exact overwritten data
  · unfold releaseBuffer
    split
    · exact overwritten []
    · simp only [liveBuffers, List.map_cons, List.pairwise_cons, List.mem_map, List.mem_filter]
      refine ⟨?_, ?_⟩
      · rintro _ ⟨e, ⟨he, _⟩, rfl⟩
        exact hle e he
      · exact htl.sublist (List.filter_sublist.map _)

/-- A step with a call pending performs that call on the state without it. -/
theorem step_call {s : State} {c : Call} {rest : List Call} (h : s.calls = c :: rest) :
    step s = performCall c { s with calls := rest } := by
  simp [step, h]

end Sys2Proof.Machine
end

