-- ==== Sys2Proof/Laws/Fields.lean ====
section
/-! SUPPORT. How fields and bytes correspond: byte 0 and its parts, a multi-byte field and its bytes, and the whole window
that ENCODE writes. -/

namespace Sys2Proof.Machine

open Sys2Proof (halfBytes sequenceBytes teidBytes)

/-! ### Byte 0 -/

@[simp] theorem versionOf_byte0Of (v : BitVec 3) (p t : Bool) : versionOf (byte0Of v p t) = v := by
  revert v p t; decide

@[simp] theorem piggybackOf_byte0Of (v : BitVec 3) (p t : Bool) : piggybackOf (byte0Of v p t) = p := by
  revert v p t; decide

@[simp] theorem teidFlagOf_byte0Of (v : BitVec 3) (p t : Bool) : teidFlagOf (byte0Of v p t) = t := by
  revert v p t; decide

@[simp] theorem reservedOf_byte0Of (v : BitVec 3) (p t : Bool) : reservedOf (byte0Of v p t) = 0 := by
  revert v p t; decide

/-- The byte 0 that the pseudocode ORs together is the one that the format table lays out, reserved bits zero. -/
theorem byte0Of_two (p t : Bool) : byte0Of 2 p t = Sys2Proof.headerByte0 p t 0 := by
  revert p t; decide

/-- The mask of R87 tests exactly the version field. -/
theorem version_mask (b0 : Byte) : b0 &&& 0xE0 = 0x40 ↔ versionOf b0 = 2 := by
  revert b0; decide

/-- The masks of R87 tell H8 and H12 by T, once the version is 2. -/
theorem format_mask (b0 : Byte) : b0 &&& 0xE8 = 0x40 ↔ versionOf b0 = 2 ∧ teidFlagOf b0 = false := by
  revert b0; decide

/-! ### Fields of more than one byte -/

theorem bigEndianBytes_one (x : Byte) : bigEndianBytes 1 x.toNat = [x] := by
  simp [bigEndianBytes]

theorem bigEndianBytes_half (v : BitVec 16) : bigEndianBytes 2 v.toNat = halfBytes v := by
  simp only [bigEndianBytes, halfBytes, List.cons.injEq, and_true]
  refine ⟨?_, ?_⟩ <;> apply BitVec.eq_of_toNat_eq <;> simp [Nat.shiftRight_eq_div_pow]

theorem bigEndianBytes_sequence (v : BitVec 24) : bigEndianBytes 3 v.toNat = sequenceBytes v := by
  simp only [bigEndianBytes, sequenceBytes, List.cons.injEq, and_true]
  refine ⟨?_, ?_, ?_⟩ <;> apply BitVec.eq_of_toNat_eq <;> simp [Nat.shiftRight_eq_div_pow]

theorem bigEndianBytes_teid (v : BitVec 32) : bigEndianBytes 4 v.toNat = teidBytes v := by
  simp only [bigEndianBytes, teidBytes, List.cons.injEq, and_true]
  refine ⟨?_, ?_, ?_, ?_⟩ <;> apply BitVec.eq_of_toNat_eq <;> simp [Nat.shiftRight_eq_div_pow]

theorem toNat_append_byte {n : Nat} (x : BitVec n) (y : Byte) : (x ++ y).toNat = x.toNat * 256 + y.toNat := by
  rw [BitVec.toNat_append, ← Nat.shiftLeft_add_eq_or_of_lt y.isLt, Nat.shiftLeft_eq]

/-- Two bytes read as one number are the field they concatenate to (R51, R89). -/
theorem bigEndian_two (a b : Byte) : BitVec.ofNat 16 (bigEndian [a, b]) = a ++ b := by
  apply BitVec.eq_of_toNat_eq
  rw [toNat_append_byte]
  have := a.isLt; have := b.isLt
  simp [bigEndian]
  omega

theorem bigEndian_four (a b c d : Byte) : BitVec.ofNat 32 (bigEndian [a, b, c, d]) = a ++ b ++ c ++ d := by
  apply BitVec.eq_of_toNat_eq
  simp only [toNat_append_byte]
  have := a.isLt; have := b.isLt; have := c.isLt; have := d.isLt
  simp [bigEndian]
  omega

/-- The top 24 bits of the window read as one 32-bit number are its first three bytes (R52, R127). -/
theorem window_sequence (a b c d : Byte) :
    (BitVec.ofNat 32 (bigEndian [a, b, c, d])).extractLsb' 8 24 = a ++ b ++ c := by
  apply BitVec.eq_of_toNat_eq
  rw [bigEndian_four, BitVec.extractLsb'_toNat, toNat_append_byte _ d]
  have hd := d.isLt
  have hx := (a ++ b ++ c).isLt
  rw [Nat.shiftRight_eq_div_pow]
  omega

theorem append_halfBytes (v : BitVec 16) : (v.extractLsb' 8 8 ++ v.extractLsb' 0 8 : BitVec 16) = v := by
  apply BitVec.eq_of_toNat_eq
  rw [toNat_append_byte]
  have := v.isLt
  simp [Nat.shiftRight_eq_div_pow]
  omega

theorem append_sequenceBytes (v : BitVec 24) :
    (v.extractLsb' 16 8 ++ v.extractLsb' 8 8 ++ v.extractLsb' 0 8 : BitVec 24) = v := by
  apply BitVec.eq_of_toNat_eq
  simp only [toNat_append_byte]
  have := v.isLt
  simp [Nat.shiftRight_eq_div_pow]
  omega

theorem append_teidBytes (v : BitVec 32) :
    (v.extractLsb' 24 8 ++ v.extractLsb' 16 8 ++ v.extractLsb' 8 8 ++ v.extractLsb' 0 8 : BitVec 32) = v := by
  apply BitVec.eq_of_toNat_eq
  simp only [toNat_append_byte]
  have := v.isLt
  simp [Nat.shiftRight_eq_div_pow]
  omega

/-! ### The window of ENCODE -/

/-- The bytes of a header, in the order of R90. -/
def headerBytes (t : Bool) (f : EncodeFields) : Bytes :=
  byte0Of f.version f.piggybackingFlag t :: f.messageType ::
    (halfBytes f.messageLength ++ (if t then teidBytes f.teid else []) ++ sequenceBytes f.sequenceNumber ++ [0])

/-- Whatever a window of the right length held, ENCODE's writes leave exactly the header's bytes in it (R55). -/
theorem writeHeader_eq {w : Bytes} {t : Bool} (f : EncodeFields) (h : w.length = headerLength t) :
    writeHeader w t f = some (headerBytes t f) := by
  have zero : bigEndianBytes 1 0 = [0] := by decide
  cases t
  · obtain ⟨a0, a1, a2, a3, a4, a5, a6, a7, rfl⟩ : ∃ a0 a1 a2 a3 a4 a5 a6 a7, w = [a0, a1, a2, a3, a4, a5, a6, a7] := by
      match w, h with
      | [a0, a1, a2, a3, a4, a5, a6, a7], _ => exact ⟨_, _, _, _, _, _, _, _, rfl⟩
    simp [writeHeader, memWrite, windowOffset, bigEndianBytes_one, bigEndianBytes_half, bigEndianBytes_sequence, zero,
      headerBytes, halfBytes, sequenceBytes]
  · obtain ⟨a0, a1, a2, a3, a4, a5, a6, a7, a8, a9, a10, a11, rfl⟩ :
        ∃ a0 a1 a2 a3 a4 a5 a6 a7 a8 a9 a10 a11, w = [a0, a1, a2, a3, a4, a5, a6, a7, a8, a9, a10, a11] := by
      match w, h with
      | [a0, a1, a2, a3, a4, a5, a6, a7, a8, a9, a10, a11], _ => exact ⟨_, _, _, _, _, _, _, _, _, _, _, _, rfl⟩
    simp [writeHeader, memWrite, windowOffset, bigEndianBytes_one, bigEndianBytes_half, bigEndianBytes_sequence,
      bigEndianBytes_teid, zero, headerBytes, halfBytes, sequenceBytes, teidBytes]

end Sys2Proof.Machine
end

