-- ==== Sys2Proof/Laws/PerInstr.lean ====
section
/-! SUPPORT. Statements about every instruction as syntax, one lemma per constructor. -/

namespace Sys2Proof.Laws.EncodedLength

/-- An instruction takes at least one byte and no more than the longest header (R80, R87). -/
def Statement (i : Instr) : Prop := 1 ≤ (encode i).length ∧ (encode i).length ≤ longestInstr

theorem decode : Statement .decode := by simp [Statement, Sys2Proof.encode, longestInstr]

theorem encode : Statement .encode := by simp [Statement, Sys2Proof.encode, longestInstr]

theorem dispatch : Statement .dispatch := by simp [Statement, Sys2Proof.encode, longestInstr]

theorem gtp2cH8 (p : Bool) (r : BitVec 3) (mt : Byte) (ml : BitVec 16) (seq : BitVec 24) (z : Byte) :
    Statement (.gtp2cH8 p r mt ml seq z) := by
  simp [Statement, Sys2Proof.encode, halfBytes, sequenceBytes, longestInstr]

theorem gtp2cH12 (p : Bool) (r : BitVec 3) (mt : Byte) (ml : BitVec 16) (tid : BitVec 32) (seq : BitVec 24) (z : Byte) :
    Statement (.gtp2cH12 p r mt ml tid seq z) := by
  simp [Statement, Sys2Proof.encode, halfBytes, teidBytes, sequenceBytes, longestInstr]

theorem nextIpv4 (low : BitVec 4) : Statement (.nextIpv4 low) := by
  simp [Statement, Sys2Proof.encode, longestInstr]

theorem nextIpv6 (low : BitVec 4) : Statement (.nextIpv6 low) := by
  simp [Statement, Sys2Proof.encode, longestInstr]

theorem nextPpp (nibble low : BitVec 4) : Statement (.nextPpp nibble low) := by
  simp [Statement, Sys2Proof.encode, longestInstr]

end Sys2Proof.Laws.EncodedLength
end

