-- ==== Sys2Proof/Tests/Slice0.lean ====
section
/-! SUPPORT. Tests of one step or one function each, with expected values from 95_test_vectors, and for each obligation
with hypotheses a named witness that meets them. -/

namespace Sys2Proof.Tests

open Sys2Proof Sys2Proof.Machine

/-- A state whose buffers and operand are given, everything else as after reset. -/
def stateOf (ib p : Bytes) (h : HeaderOperand) : State := { State.reset with ib := ib, p := p, operand := h }

def inputOf (ib : Bytes) : State := stateOf ib [] HeaderOperand.unset

/-- The payload operand is the caller's own bytes, as after reset. -/
def payloadOf (p : Bytes) : State := stateOf [] p HeaderOperand.unset

/-- The same bytes, from a view of buffer 0, which was overwritten since. -/
def stalePayloadOf (p : Bytes) : State := overwriteInput [] { payloadOf p with payloadSource := .viewOf 0 }

/-- The next state, if there is one. -/
def nextOf : Host.Outcome State Fault Refusal → Option State
  | .next t => some t
  | .fault _ => none
  | .refused _ => none

/-- The reason of a refusal, if there is one. -/
def refusalOf : Host.Outcome State Fault Refusal → Option Refusal
  | .next _ => none
  | .fault _ => none
  | .refused r => some r

/-- What the caller may read after the operation. -/
def resultOf (o : Host.Outcome State Fault Refusal) : Option Result := (nextOf o).bind result

/-- A Header with zero views. -/
def headerOf (v : BitVec 3) (p t : Bool) (mt : Byte) (ml : BitVec 16) (tid : BitVec 32) (seq : BitVec 24) : Header :=
  { Header.zeros with version := v, piggybackingFlag := p, teidFlag := t, messageType := mt, messageLength := ml
                      teid := tid, sequenceNumber := seq }

def withViews (h : Header) (hlen rest : Nat) : Header :=
  { h with contents := { start := 0, len := hlen }, payload := { start := hlen, len := rest } }

/-! ### Well-formedness -/

theorem test_ppp_nibble_4_refused : (Instr.nextPpp 4 0).wellFormed = false := by decide
theorem test_ppp_nibble_6_refused : (Instr.nextPpp 6 15).wellFormed = false := by decide
theorem test_ppp_nibble_5_accepted : (Instr.nextPpp 5 0).wellFormed = true := by decide

/-! ### Decoding words written out from R86, R99 and R100 -/

theorem test_decode_command_0 : decodeAt .command [0b00000000] = .ok (.decode, []) := by rfl
theorem test_decode_command_1 : decodeAt .command [0b00000001] = .ok (.encode, []) := by rfl
theorem test_decode_command_2 : decodeAt .command [0b00000010] = .ok (.dispatch, []) := by rfl
theorem test_decode_command_3 : decodeAt .command [0b00000011] = .error .reservedCommand := by rfl
theorem test_decode_command_wide : decodeAt .command [0b01000000] = .error .notACommand := by rfl

/-- H8 = 010p0rrr …: version 010, P 1, T 0, reserved 101. -/
theorem test_decode_h8_word :
    decodeAt .header [0b01010101, 0x02, 0xAB, 0xCD, 0x12, 0x34, 0x56, 0x99] =
      .ok (.gtp2cH8 true 0b101 0x02 0xABCD 0x123456 0x99, []) := by rfl

/-- H12 = 010p1rrr …: version 010, P 0, T 1, reserved 011. -/
theorem test_decode_h12_word :
    decodeAt .header [0b01001011, 0x23, 0x12, 0x34, 0x80, 0, 0, 0x01, 0x80, 0, 0x01, 0xA5, 0x99] =
      .ok (.gtp2cH12 false 0b011 0x23 0x1234 0x80000001 0x800001 0xA5, [0x99]) := by rfl

/-- VD13: eight bytes of an H12. -/
theorem test_decode_h12_cut : decodeAt .header [0x48, 0x20, 0x01, 0x07, 0, 0, 0, 0] = .error .truncatedHeader := by rfl
/-- VD16: version 3. -/
theorem test_decode_version_3 : decodeAt .header [0x60, 0, 0, 0, 0, 0, 0, 0] = .error .unsupportedVersion := by rfl
theorem test_decode_ipv4_word : decodeAt .payload [0b01001111] = .ok (.nextIpv4 15, []) := by rfl
theorem test_decode_ipv6_word : decodeAt .payload [0b01101010] = .ok (.nextIpv6 10, []) := by rfl
theorem test_decode_ppp_word : decodeAt .payload [0b01010011, 0x45] = .ok (.nextPpp 5 3, [0x45]) := by rfl

/-- The opcode table's own words, by their match values (log entry 9). -/
theorem test_table_words :
    [decodeTableWord 8 0, decodeTableWord 8 1, decodeTableWord 8 2, decodeTableWord 8 3, decodeTableWord 8 0x40,
     decodeTableWord 8 0x48, decodeTableWord 8 0x60, decodeTableWord 8 0x70] =
      [some .decode, some .encode, some .dispatch, none, some (.gtp2cH8 false 0 0 0 0 0),
       some (.gtp2cH12 false 0 0 0 0 0 0), some (.nextIpv6 0), some (.nextPpp 7 0)] := by decide

/-- The first step after reset runs the placed word: ENCODE of a Header of zeros prepends eight zero bytes. -/
theorem test_fetch_encode_after_reset :
    (nextOf (step (State.reset.withFetchWord 8 1))).map (fun t => (t.sb, t.err)) = some ([0, 0, 0, 0, 0, 0, 0, 0], .ok) := by
  decide

/-! ### DECODE -/

/-- S2a: the source's bytes carry sequence number 20 (conflict C1). -/
theorem test_decode_s2a :
    resultOf (exec .decode (inputOf [0x48, 0x20, 0x01, 0x07, 0, 0, 0, 0, 0x00, 0x00, 0x14, 0x4C])) =
      some (.decoded (withViews (headerOf 2 false true 32 263 0 20) 12 0) 12) := by decide

/-- VD6: T clear, the bytes 4 to 7 are the window and `teid` is zero. -/
theorem test_decode_vd6 :
    resultOf (exec .decode (inputOf [0x40, 0x20, 0, 0, 0xFF, 0xFF, 0xFF, 0xFF, 0x45])) =
      some (.decoded (withViews (headerOf 2 false false 32 0 0 0xFFFFFF) 8 1) 8) := by decide

/-! ### ENCODE -/

/-- VE13: prepended in front of what the buffer holds. -/
theorem test_encode_ve13 :
    (nextOf (exec .encode { stateOf [] [] (operandOfHeader (headerOf 2 true true 255 65535 0xDEADBEEF 0xFFFFFF)) with
        sb := [0x60, 0, 0, 0] })).map (·.sb) =
      some [0x58, 0xFF, 0xFF, 0xFF, 0xDE, 0xAD, 0xBE, 0xEF, 0xFF, 0xFF, 0xFF, 0, 0x60, 0, 0, 0] := by decide

/-- VE2: without TEID the sequence number is at offset 4. -/
theorem test_encode_ve2 :
    resultOf (exec .encode (stateOf [] [] (operandOfHeader (headerOf 2 false false 1 4 0xCAFEBABE 0x123456)))) =
      some (.encoded [0x40, 0x01, 0, 0x04, 0x12, 0x34, 0x56, 0]) := by decide

/-! ### DISPATCH and the payload rows -/

/-- VX6: nibble 5, between the two. -/
theorem test_dispatch_vx6 : resultOf (exec .dispatch (payloadOf [0x50])) = some (.dispatched .ppp) := by decide
/-- VX4: the low nibble is ignored. -/
theorem test_dispatch_vx4 : resultOf (exec .dispatch (payloadOf [0x4F])) = some (.dispatched .ipv4) := by decide
theorem test_next_ipv4 : resultOf (exec (.nextIpv4 15) (payloadOf [0x4F])) = some (.dispatched .ipv4) := by decide
theorem test_next_ipv6 : resultOf (exec (.nextIpv6 10) (payloadOf [0x6A])) = some (.dispatched .ipv6) := by decide
theorem test_next_ppp : resultOf (exec (.nextPpp 2 1) (payloadOf [0x21, 0x45])) = some (.dispatched .ppp) := by decide

/-- R198, U5: a payload operand formed from a view is refused once IB is overwritten. -/
theorem test_stale_payload_refused :
    refusalOf (runSteps 4 { inputOf [0x40, 0x20, 0, 0, 0xFF, 0xFF, 0xFF, 0xFF, 0x45] with
      calls := [.command 0, .givePayloadView, .overwriteInput [0x60], .command 2] }) = some .staleView := by decide

/-- R63, R67: handing over another buffer frees none, so the earlier buffer's payload is dispatched; until it is released. -/
theorem test_earlier_buffer_dispatched :
    (nextOf (runSteps 3 { inputOf [0x40, 0x20, 0, 0, 0xFF, 0xFF, 0xFF, 0xFF, 0x45] with
      calls := [.command 0, .giveInput [0x60], .nextLayerType] })).bind result = some (.dispatched .ipv4) ∧
    refusalOf (runSteps 4 { inputOf [0x40, 0x20, 0, 0, 0xFF, 0xFF, 0xFF, 0xFF, 0x45] with
      calls := [.command 0, .giveInput [0x60], .releaseBuffer 0, .nextLayerType] }) = some .staleView := by decide

/-- D24: the caller's own bytes are dispatched whatever becomes of IB. -/
theorem test_own_payload_kept :
    (nextOf (runSteps 3 { inputOf [] with calls := [.givePayload [0x60], .giveInput [0x45], .command 2] })).bind result =
      some (.dispatched .ipv6) := by decide

/-! ### The header rows -/

/-- VD4: reserved bits and spare byte leave no trace. -/
theorem test_h8_vd4 :
    resultOf (exec (.gtp2cH8 false 7 32 8 1 0xFF) (inputOf [0x47, 0x20, 0, 0x08, 0, 0, 0x01, 0xFF])) =
      some (.decoded (withViews (headerOf 2 false false 32 8 0 1) 8 0) 8) := by decide

/-- VD9: no sign extension. -/
theorem test_h12_vd9 :
    resultOf (exec (.gtp2cH12 false 7 35 0x1234 0x80000001 0x800001 0xA5)
        (inputOf [0x4F, 0x23, 0x12, 0x34, 0x80, 0, 0, 0x01, 0x80, 0, 0x01, 0xA5, 0x99])) =
      some (.decoded (withViews (headerOf 2 false true 35 0x1234 0x80000001 0x800001) 12 1) 12) := by decide

/-! ### Witnesses: states that meet the hypotheses of the obligations -/

/-- A state after a DECODE of VD6, whose Header the caller holds. -/
def decodedState : State :=
  returnHeader (withViews (headerOf 2 false false 32 0 0 0xFFFFFF) 8 1) 8
    (inputOf [0x40, 0x20, 0, 0, 0xFF, 0xFF, 0xFF, 0xFF, 0x45])

/-- StepKeepsRecordInv, StepNeverFaults and CapabilitiesReportTheTags: the invariant holds in a state with a held Header, live
views and a payload, whose next call succeeds. -/
theorem witness_record_inv :
    RecordInv { decodedState with calls := [.nextLayerType] } ∧
      (bufferBytes decodedState decodedState.heldBuffer).isSome = true ∧
      decodedState.heldHeader.map (fun h => decide (0 < h.payload.len)) = some true ∧
      (nextOf (step { decodedState with calls := [.nextLayerType] })).isSome = true := by
  refine ⟨?_, rfl, by decide, by decide⟩
  constructor <;> simp [decodedState, statusesOf, inputOf, stateOf, State.reset, withViews, bufferBytes_eq, liveBuffers]
  constructor <;> simp [headerOf, headerLength]

/-- IdleStepChangesNothing. -/
theorem witness_idle : State.reset.calls = [] := rfl

/-- StepRunsTheDecodedInstruction, each port. -/
theorem witness_step_runs :
    decodeCommand 2 = .ok .dispatch ∧
    decodeAt .header (inputOf [0x40, 0x01, 0, 0x04, 0x12, 0x34, 0x56, 0]).ib =
      .ok (.gtp2cH8 false 0 1 4 0x123456 0, []) ∧
    decodeAt .payload (payloadOf [0x60]).p = .ok (.nextIpv6 0, []) := ⟨rfl, rfl, rfl⟩

/-- FetchWordRunsTheDecodedRow, at the last command code, the first header byte and the last payload byte. -/
theorem witness_fetch_word :
    (decodeTableWord 8 2).isSome = true ∧ (decodeTableWord 64 0x40).isSome = true ∧ (decodeTableWord 8 0xFF).isSome = true := by
  decide

/-- DecodeInvertsEncode and EncodeInvertsDecode. -/
theorem witness_well_formed :
    (Instr.nextPpp 5 0).wellFormed = true ∧ decodeAt .payload [0x50, 0x45] = .ok (.nextPpp 5 0, [0x45]) := ⟨rfl, rfl⟩

/-- DecodeRaisesErrorsInOrder, clause by clause at the boundary lengths 7, 8, 11 and 8. -/
theorem witness_decode_errors :
    (inputOf [0x28, 0x20, 0x01, 0x07, 0, 0, 0]).ib.length < 8 ∧
    (readByte (inputOf [0x28, 0x20, 0x01, 0x07, 0, 0, 0, 0]).ib 0 = some 0x28 ∧
      8 ≤ (inputOf [0x28, 0x20, 0x01, 0x07, 0, 0, 0, 0]).ib.length ∧ (0x28 : Byte).extractLsb' 5 3 ≠ 2) ∧
    (readByte (inputOf [0x48, 0x20, 0x01, 0x07, 0, 0, 0, 0, 0, 0x14, 0x4C]).ib 0 = some 0x48 ∧
      8 ≤ (inputOf [0x48, 0x20, 0x01, 0x07, 0, 0, 0, 0, 0, 0x14, 0x4C]).ib.length ∧
      (inputOf [0x48, 0x20, 0x01, 0x07, 0, 0, 0, 0, 0, 0x14, 0x4C]).ib.length < 12 ∧
      (0x48 : Byte).extractLsb' 5 3 = 2 ∧ (0x48 : Byte).getLsbD 3 = true) ∧
    (readByte (inputOf [0x40, 0, 0, 0, 0, 0, 0, 0]).ib 0 = some 0x40 ∧
      8 ≤ (inputOf [0x40, 0, 0, 0, 0, 0, 0, 0]).ib.length ∧ (0x40 : Byte).extractLsb' 5 3 = 2 ∧
      (0x40 : Byte).getLsbD 3 = false) := by decide

/-- DecodeExtractsEveryField, each variant at its shortest buffer. -/
theorem witness_decode_fields :
    ((inputOf [0x40, 1, 0, 4, 0, 0, 1, 0]).ib = 0x40 :: 1 :: 0 :: 4 :: 0 :: 0 :: 1 :: 0 :: [] ∧
      (0x40 : Byte).extractLsb' 5 3 = 2 ∧ (0x40 : Byte).getLsbD 3 = false) ∧
    ((inputOf [0x5F, 1, 0, 4, 0, 0, 1, 0, 2, 3, 4, 5]).ib =
        0x5F :: 1 :: 0 :: 4 :: 0 :: 0 :: 1 :: 0 :: 2 :: 3 :: 4 :: 5 :: [] ∧
      (0x5F : Byte).extractLsb' 5 3 = 2 ∧ (0x5F : Byte).getLsbD 3 = true) := by decide

/-- DecodeClassesFixTheOutcome, each class at a boundary: lengths 7, 8, 11, 8 and 12. -/
theorem witness_decode_classes :
    [[0x40, 0, 0, 0, 0, 0, 0], [0x60, 0, 0, 0, 0, 0, 0, 0], [0x48, 0, 0, 0, 0, 0, 0, 0, 0, 0, 0],
     [0x57, 0, 0, 0, 0, 0, 0, 0], [0x5F, 0, 0, 0, 0, 0, 0, 0, 0, 0, 0, 0]].map
        (fun b => (nextOf (exec .decode (inputOf b))).map fun t => (t.err, t.hdrValid)) =
      [some (.error .truncatedHeader, false), some (.error .unsupportedVersion, false),
       some (.error .truncatedHeader, false), some (.ok, true), some (.ok, true)] := by decide

/-- DecodeIgnoresTrailingBytes, DecodedViewsSplitTheInput, PayloadViewIsTheRestOfTheInput, EncodeAfterDecodeCanonicalises (with
`operandOfHeader` of the Header as the operand) and the success clause of DecodeChainDispatchesThePayload. -/
theorem witness_decode_succeeds :
    (nextOf (exec .decode (inputOf ([0x47, 0x20, 0, 0x08, 0, 0, 0x01, 0xFF] ++ [0x45])))).map
        (fun t => (t.err, t.hdrValid, t.consumedLength)) = some (.ok, true, 8) ∧
      State.reset.prependOk = true := by decide

/-- DecodeChainDispatchesThePayload, the failure clause. -/
theorem witness_decode_fails :
    (nextOf (exec .decode (inputOf [0x40]))).map (·.err) = some (.error .truncatedHeader) := by decide

/-- EncodePrependsTheHeaderBytes, EncodeKeepsEarlierContent, EncodeIsDeterministic, EncodeWritesTheFormatRow,
DecodeAfterEncodeReturnsTheHeader, RoundTripRunReturnsTheHeader and CanonicalBytesAreExactlyTheEncodings: a valid Header of each
variant as the operand of a state whose prepend succeeds. -/
theorem witness_encode :
    [headerOf 2 false false 255 65535 0xFFFFFFFF 0xFFFFFF, headerOf 2 true true 0 0 0 0].map
        (fun h => (validHeader h, (stateOf [] [] (operandOfHeader h)).operand.teidFlag,
          (stateOf [] [] (operandOfHeader h)).prependOk,
          (nextOf (exec .encode (stateOf [] [] (operandOfHeader h)))).map (·.err))) =
      [(true, some false, true, some .ok), (true, some true, true, some .ok)] := by decide

/-- CanonicalBytesAreExactlyTheEncodings, the second clause. -/
theorem witness_canonical : canonicalBytes [0x40, 0x20, 0, 0x08, 0, 0, 0x01, 0] = true := by decide

/-- AllocationFailureExactlyWhenPrependFails, both clauses, for both sizes. -/
theorem witness_prepend_fails :
    [true, false].map (fun t => (nextOf (exec .encode
        { stateOf [] [] { HeaderOperand.unset with teidFlag := some t } with prependOk := false })).map
          (fun u => (u.err, u.prependLog))) =
      [some (.error .bufferAllocationFailure, [12]), some (.error .bufferAllocationFailure, [8])] := by decide

/-- EncodeRefusesFieldsNeverSet: no field set, and only `teid` missing with T set. -/
theorem witness_encode_unset :
    HeaderOperand.unset.teidFlag = none ∧
      refusalOf (exec .encode (stateOf [] []
        { operandOfHeader (headerOf 2 false true 1 4 0 1) with teid := none })) = some (.headerFieldUnset .teid) := by
  decide

/-- EncodeIgnoresAbsentTeid: `teid` not even set, T clear. -/
theorem witness_absent_teid :
    (nextOf (exec .encode (stateOf [] []
      { operandOfHeader (headerOf 2 false false 1 4 0 1) with teid := none }))).map (·.err) = some .ok ∧
      (headerOf 2 false false 1 4 0 1).teidFlag = false := by decide

/-- DispatchChoosesTheNextProtocol, DispatchDependsOnTheTopNibbleAlone and PayloadRowsGiveTheirProtocol, the refused clause
too. -/
theorem witness_dispatch :
    payloadUsable (payloadOf []) = true ∧ payloadUsable (payloadOf [0x45]) = true ∧
      payloadUsable (stalePayloadOf [0x45]) = false ∧
      (payloadOf []).p = [] ∧ (payloadOf [0x45]).p = ((4 : BitVec 4) ++ (5 : BitVec 4) : BitVec 8) :: [] ∧
      (payloadOf [0x45]).p ≠ [] := by decide

/-- HeaderRowsGiveTheirFields, each clause at its boundary length. -/
theorem witness_header_rows :
    8 ≤ (inputOf (List.replicate 8 0x40)).ib.length ∧ 12 ≤ (inputOf (List.replicate 12 0x48)).ib.length ∧
      (inputOf (List.replicate 7 0x40)).ib.length < 8 ∧ (inputOf (List.replicate 11 0x48)).ib.length < 12 := by decide

/-- FailedOperationChangesNothing, OperandsAreNeverWritten, ResultsAreWrittenByTheirOwnOperation, ResultsDependOnOperandsAlone and
ErrorsAndTheirCauses: an operation that fails and one of each kind that succeeds. -/
theorem witness_outcomes :
    (nextOf (exec .dispatch (payloadOf []))).map (·.err) = some (.error .emptyPayload) ∧
      ([exec .decode (inputOf [0x40, 0, 0, 0, 0, 0, 0, 0]), exec .dispatch (payloadOf [0]),
        exec .encode (stateOf [] [] (operandOfHeader Header.zeros))].map fun o => (nextOf o).map (·.err)) =
        [some .ok, some .ok, some .ok] ∧
      refusalOf (exec .encode State.reset) = some (.headerFieldUnset .teidFlag) := by decide

/-- OperationAfterResetBehavesTheSame: the reset steps, and the operation has a next state. -/
theorem witness_after_reset :
    (nextOf (step { decodedState with calls := [.resetBlock] })).map (·.hdrValid) = some false ∧
      (nextOf (exec .decode { decodedState with calls := [] })).isSome = true := by decide

/-- UnusableViewsAreRefused: a Header held after its buffer was overwritten or released, an operand formed from a view of it and one
of the caller's own, and none held after reset. EarlierBuffersKeepTheirViews: the same Header after another buffer was provided. The
invariant in decodedState is witness_record_inv's. -/
theorem witness_unusable_views :
    (overwriteInput [] decodedState).heldHeader.isSome = true ∧ bufferBytes (overwriteInput [] decodedState) 0 = none ∧
      bufferBytes (releaseBuffer 0 (giveInput [] decodedState)) 0 = none ∧
      payloadUsable (overwriteInput [] (setPayload (.viewOf 0) [0x45] decodedState)) = false ∧
      decodedState.payloadSource = .callerBytes ∧ State.reset.heldHeader = none ∧
      bufferBytes (giveInput [] decodedState) 0 = some decodedState.ib := by decide

end Sys2Proof.Tests
end

/-! What each operation does, said once: DECODE is the header row it fetches, DISPATCH the payload row of its nibble, and ENCODE
has four outcomes. -/

namespace Sys2Proof.Machine

/-! ### DECODE -/

/-- A header row is a Header of version 2 without its views, accepted at the length its T gives (R86, R88). -/
theorem exec_headerRow {i : Instr} (hi : i.port = .header) :
    ∃ fields : Header, fields.version = Config.versionSupported ∧ (fields.teidFlag = false → fields.teid = 0) ∧
      ∀ s, exec i s = .next (acceptHeader (headerLength fields.teidFlag) fields s) := by
  cases i with
  | gtp2cH8 p r mt ml seq z =>
    exact ⟨{ Header.zeros with version := 2, piggybackingFlag := p, teidFlag := false, messageType := mt
                               messageLength := ml, teid := 0, sequenceNumber := seq }, rfl, fun _ => rfl, fun _ => rfl⟩
  | gtp2cH12 p r mt ml tid seq z =>
    exact ⟨{ Header.zeros with version := 2, piggybackingFlag := p, teidFlag := true, messageType := mt
                               messageLength := ml, teid := tid, sequenceNumber := seq }, rfl, nofun, fun _ => rfl⟩
  | decode | encode | dispatch | nextIpv4 | nextIpv6 | nextPpp => cases hi

/-- The header port gives header rows only. -/
theorem decodeHeader_port {b tail : Bytes} {i : Instr} (h : decodeHeader b = .ok (i, tail)) : i.port = .header := by
  unfold decodeHeader at h
  repeat' split at h
  all_goals cases h <;> rfl

/-- A rejected header is one of the two errors of DECODE (R97). -/
theorem headerError_mem (r : DecodeReject) : Status.error (headerError r) ∈ statusesOf .decode := by
  cases r <;> simp [headerError, statusesOf]

section Classes

variable {b0 b1 b2 b3 b4 b5 b6 b7 : Byte} {rest : Bytes}

/-! The classes of R97 from 8 bytes on, at the header port. -/

theorem decodeHeader_unsupportedVersion (hv : versionOf b0 ≠ 2) :
    decodeHeader (b0 :: b1 :: b2 :: b3 :: b4 :: b5 :: b6 :: b7 :: rest) = .error .unsupportedVersion :=
  if_pos (mt (version_mask b0).mp hv)

theorem decodeHeader_H8 (hv : versionOf b0 = 2) (ht : teidFlagOf b0 = false) :
    decodeHeader (b0 :: b1 :: b2 :: b3 :: b4 :: b5 :: b6 :: b7 :: rest) =
      .ok (.gtp2cH8 (piggybackOf b0) (reservedOf b0) b1 (b2 ++ b3) (b4 ++ b5 ++ b6) b7, rest) :=
  (if_neg (not_not.mpr ((version_mask b0).mpr hv))).trans (if_pos ((format_mask b0).mpr ⟨hv, ht⟩))

theorem decodeHeader_H12 (b8 b9 b10 b11 : Byte) (hv : versionOf b0 = 2) (ht : teidFlagOf b0 = true) :
    decodeHeader (b0 :: b1 :: b2 :: b3 :: b4 :: b5 :: b6 :: b7 :: b8 :: b9 :: b10 :: b11 :: rest) =
      .ok (.gtp2cH12 (piggybackOf b0) (reservedOf b0) b1 (b2 ++ b3) (b4 ++ b5 ++ b6 ++ b7) (b8 ++ b9 ++ b10) b11, rest) :=
  (if_neg (not_not.mpr ((version_mask b0).mpr hv))).trans (if_neg fun hm => by simp [((format_mask b0).mp hm).2] at ht)

theorem decodeHeader_cut (hv : versionOf b0 = 2) (ht : teidFlagOf b0 = true) (hr : rest.length < 4) :
    decodeHeader (b0 :: b1 :: b2 :: b3 :: b4 :: b5 :: b6 :: b7 :: rest) = .error .truncatedHeader := by
  refine ((if_neg (not_not.mpr ((version_mask b0).mpr hv))).trans
    (if_neg fun hm => by simp [((format_mask b0).mp hm).2] at ht)).trans ?_
  split
  · simp at hr; omega
  · rfl

end Classes

theorem bigEndian_one (b : Byte) : BitVec.ofNat 8 (bigEndian [b]) = b := by
  simp [bigEndian]

theorem execDecode_short {s : State} (h : s.ib.length < 8) :
    execDecode s = .next (raiseError .decode .truncatedHeader s) :=
  if_pos h

theorem decodeHeader_short {b : Bytes} (h : b.length < 8) : decodeHeader b = .error .truncatedHeader := by
  unfold decodeHeader
  split
  · simp at h; omega
  · rfl

theorem extract_sequence (a b c d : Byte) : (a ++ b ++ c ++ d).extractLsb' 8 24 = a ++ b ++ c := by
  rw [← bigEndian_four, window_sequence]

theorem runHeaderEntry_ok {s : State} {i : Instr} {tail : Bytes} (h : decodeHeader s.ib = .ok (i, tail)) :
    runHeaderEntry s = exec i s := by
  simp [runHeaderEntry, decodeAt, h]

theorem runHeaderEntry_error {s : State} {r : DecodeReject} (h : decodeHeader s.ib = .error r) :
    runHeaderEntry s = .next (raiseError .decode (headerError r) s) := by
  simp [runHeaderEntry, decodeAt, h]

/-- DECODE, which follows the pseudocode, fetches and runs the header row at the front of IB (R87, R97 against R120). -/
theorem execDecode_eq_runHeaderEntry (s : State) : execDecode s = runHeaderEntry s := by
  match hb : s.ib with
  | [] | [_] | [_, _] | [_, _, _] | [_, _, _, _] | [_, _, _, _, _] | [_, _, _, _, _, _] | [_, _, _, _, _, _, _] =>
    have short : s.ib.length < 8 := by simp [hb]
    rw [execDecode_short short, runHeaderEntry_error (decodeHeader_short short), headerError]
  | b0 :: b1 :: b2 :: b3 :: b4 :: b5 :: b6 :: b7 :: rest =>
    by_cases hv : versionOf b0 = 2#3
    · cases ht : teidFlagOf b0 with
      | false =>
        rw [runHeaderEntry_ok (hb ▸ decodeHeader_H8 hv ht)]
        simp +arith [execDecode, exec, execGtp2cH8, acceptHeader, hb, hv, ht, headerLength, windowOffset, memRead,
          bigEndian_one, bigEndian_two, window_sequence]
      | true =>
        match rest with
        | [] | [_] | [_, _] | [_, _, _] =>
          rw [runHeaderEntry_error (hb ▸ decodeHeader_cut hv ht (by simp))]
          simp [execDecode, hb, hv, ht, headerLength, memRead, bigEndian_one, headerError]
        | b8 :: b9 :: b10 :: b11 :: tail =>
          rw [runHeaderEntry_ok (hb ▸ decodeHeader_H12 b8 b9 b10 b11 hv ht)]
          simp +arith [execDecode, exec, execGtp2cH12, acceptHeader, hb, hv, ht, headerLength, windowOffset, memRead,
            bigEndian_one, bigEndian_two, bigEndian_four, extract_sequence]
    · rw [runHeaderEntry_error (hb ▸ decodeHeader_unsupportedVersion hv)]
      simp +arith [execDecode, hb, hv, memRead, bigEndian_one, headerError]

theorem exec_decode_of_decodeHeader {s : State} {i : Instr} {tail : Bytes} (h : decodeHeader s.ib = .ok (i, tail)) :
    exec .decode s = exec i s :=
  (execDecode_eq_runHeaderEntry s).trans (runHeaderEntry_ok h)

theorem exec_decode_of_decodeHeader_error {s : State} {r : DecodeReject} (h : decodeHeader s.ib = .error r) :
    exec .decode s = .next (raiseError .decode (headerError r) s) :=
  (execDecode_eq_runHeaderEntry s).trans (runHeaderEntry_error h)

/-! The bytes of a header row decode to it. -/

theorem flags_headerByte0 (p t : Bool) (r : BitVec 3) :
    versionOf (headerByte0 p t r) = 2 ∧ piggybackOf (headerByte0 p t r) = p ∧ teidFlagOf (headerByte0 p t r) = t ∧
      reservedOf (headerByte0 p t r) = r := by
  revert p t r; decide

theorem decodeHeader_encode_H8 (p : Bool) (r : BitVec 3) (mt : Byte) (ml : BitVec 16) (seq : BitVec 24) (z : Byte)
    (tail : Bytes) :
    decodeHeader (encode (.gtp2cH8 p r mt ml seq z) ++ tail) = .ok (.gtp2cH8 p r mt ml seq z, tail) := by
  obtain ⟨hv, hp, ht, hr⟩ := flags_headerByte0 p false r
  refine (decodeHeader_H8 hv ht).trans ?_
  rw [hp, hr, append_halfBytes, append_sequenceBytes]
  rfl

theorem decodeHeader_encode_H12 (p : Bool) (r : BitVec 3) (mt : Byte) (ml : BitVec 16) (tid : BitVec 32)
    (seq : BitVec 24) (z : Byte) (tail : Bytes) :
    decodeHeader (encode (.gtp2cH12 p r mt ml tid seq z) ++ tail) = .ok (.gtp2cH12 p r mt ml tid seq z, tail) := by
  obtain ⟨hv, hp, ht, hr⟩ := flags_headerByte0 p true r
  refine (decodeHeader_H12 _ _ _ _ hv ht).trans ?_
  rw [hp, hr, append_halfBytes, append_teidBytes, append_sequenceBytes]
  rfl

/-! ### DISPATCH -/

/-- DISPATCH runs the payload row of the protocol that the first byte's top nibble chooses (R160 against R99). -/
theorem execDispatch_eq_classifyAs (s : State) :
    execDispatch s = classifyAs (protocolOfNibble ((s.p.headD 0).extractLsb' 4 4)) s := by
  unfold execDispatch classifyAs
  cases hp : s.p with
  | nil => cases hu : payloadUsable s <;> simp [hu, hp]
  | cons b tail => cases hu : payloadUsable s <;> simp [hu, hp, memRead, bigEndian_one]

/-- DISPATCH and the payload rows give a payload the protocol of one of the rows. -/
theorem exec_eq_classifyAs {i : Instr} (hi : i = .dispatch ∨ i.port = .payload) (s : State) :
    ∃ n, exec i s = classifyAs n s := by
  rcases hi with rfl | hi
  · exact ⟨_, execDispatch_eq_classifyAs s⟩
  · cases i with
    | nextIpv4 | nextIpv6 | nextPpp => exact ⟨_, rfl⟩
    | decode | encode | dispatch | gtp2cH8 | gtp2cH12 => cases hi

/-- The masks of R99 test exactly the top nibble. -/
theorem nibble_mask (b : Byte) :
    (b &&& 0xF0 = 0x40 ↔ b.extractLsb' 4 4 = 4) ∧ (b &&& 0xF0 = 0x60 ↔ b.extractLsb' 4 4 = 6) := by
  revert b; decide

theorem exec_decodePayloadByte (b : Byte) (s : State) :
    exec (decodePayloadByte b) s = classifyAs (protocolOfNibble (b.extractLsb' 4 4)) s := by
  obtain ⟨ipv4, ipv6⟩ := nibble_mask b
  unfold decodePayloadByte protocolOfNibble
  by_cases h4 : b.extractLsb' 4 4 = 4
  · rw [if_pos (ipv4.mpr h4), if_pos h4]
    rfl
  · rw [if_neg (mt ipv4.mp h4), if_neg h4]
    by_cases h6 : b.extractLsb' 4 4 = 6
    · rw [if_pos (ipv6.mpr h6), if_pos h6]
      rfl
    · rw [if_neg (mt ipv6.mp h6), if_neg h6]
      rfl

/-- DISPATCH, which follows the pseudocode, fetches and runs the payload row at the front of its operand (R160 against R99). -/
theorem execDispatch_eq_runPayloadEntry (s : State) : execDispatch s = runPayloadEntry s := by
  rw [execDispatch_eq_classifyAs]
  cases hu : payloadUsable s with
  | false => simp [classifyAs, runPayloadEntry, hu]
  | true =>
    cases hp : s.p with
    | nil => simp [classifyAs, runPayloadEntry, decodeAt, decodePayload, hu, hp]
    | cons b tail => simp [runPayloadEntry, decodeAt, decodePayload, exec_decodePayloadByte, hu, hp]

/-! ### ENCODE -/

theorem execEncode_teidFlag_unset {s : State} (h : s.operand.teidFlag = none) :
    execEncode s = .refused (.headerFieldUnset .teidFlag) := by
  simp [execEncode, h]

theorem execEncode_prepend_fails {s : State} {t : Bool} (ht : s.operand.teidFlag = some t) (hp : s.prependOk = false) :
    execEncode s = .next (raiseError .encode .bufferAllocationFailure (notePrepend (headerLength t) s)) := by
  simp [execEncode, ht, prependBytes_eq_none.mpr hp]

theorem execEncode_field_unset {s : State} {t : Bool} {g : HeaderField} (ht : s.operand.teidFlag = some t)
    (hp : s.prependOk = true) (hf : readEncodeFields s.operand t = .error g) :
    execEncode s = .refused (.headerFieldUnset g) := by
  simp [execEncode, ht, prependBytes_eq_some.mpr ⟨hp, rfl⟩, hf]

/-- Whatever the fresh window held, a successful ENCODE returns exactly the header's bytes. -/
theorem execEncode_writes {s : State} {t : Bool} {f : EncodeFields} (ht : s.operand.teidFlag = some t)
    (hp : s.prependOk = true) (hf : readEncodeFields s.operand t = .ok f) :
    execEncode s = .next (returnWindow (headerBytes t f) (notePrepend (headerLength t) s)) := by
  have hw : prependBytes (headerLength t) s = some _ := prependBytes_eq_some.mpr ⟨hp, rfl⟩
  simp [execEncode, ht, hw, hf, writeHeader_eq f (prependBytes_length hw)]

end Sys2Proof.Machine

/-! The effect of an instruction: a change of state that its operands alone choose. Every frame, every independence statement and
the exec part of every invariant follow from `exec_effect` by one case for each effect. -/

namespace Sys2Proof.Machine

/-- The operation an instruction performs (log entry 1): its own, or the one that reads its format. -/
def operationOf : Instr → Op
  | .decode => .decode
  | .encode => .encode
  | .dispatch => .dispatch
  | .gtp2cH8 .. => .decode
  | .gtp2cH12 .. => .decode
  | .nextIpv4 _ => .dispatch
  | .nextIpv6 _ => .dispatch
  | .nextPpp .. => .dispatch

theorem operationOf_eq_decode {i : Instr} : operationOf i = .decode ↔ i = .decode ∨ i.port = .header := by
  cases i <;> simp [operationOf, Instr.port]

theorem operationOf_eq_encode {i : Instr} : operationOf i = .encode ↔ i = .encode := by
  cases i <;> simp [operationOf]

theorem operationOf_eq_dispatch {i : Instr} : operationOf i = .dispatch ↔ i = .dispatch ∨ i.port = .payload := by
  cases i <;> simp [operationOf, Instr.port]

/-- The two states agree on the operands of an operation (R20, R44, R140, R160). -/
def SameOperands : Op → State → State → Prop
  | .decode, s, s' => s.ib = s'.ib
  | .encode, s, s' => s.operand = s'.operand ∧ s.prependOk = s'.prependOk
  | .dispatch, s, s' => s.p = s'.p ∧ payloadUsable s = payloadUsable s'

theorem SameOperands.refl (op : Op) (s : State) : SameOperands op s s := by
  cases op <;> simp [SameOperands]

/-- A reset between operations leaves every operand alone (R210). -/
theorem sameOperands_resetRecord (op : Op) (s : State) : SameOperands op s (resetRecord s) := by
  cases op <;> simp [SameOperands]

/-- What an operation that ends in `s` can do to the state. -/
inductive Effect (s : State) : Op → (State → State) → Prop
  | decodeFails {e : ErrorKind} (status : .error e ∈ statusesOf .decode) : Effect s .decode (raiseError .decode e)
  | decodes {h : Header} (shape : DecodedShape h) (split : h.contents.len + h.payload.len = s.ib.length) :
    Effect s .decode (returnHeader h h.contents.len)
  | encodeFails (n : Nat) (denied : s.prependOk = false) :
    Effect s .encode fun u => raiseError .encode .bufferAllocationFailure (notePrepend n u)
  | encodes (n : Nat) (w : Bytes) (granted : s.prependOk = true) :
    Effect s .encode fun u => returnWindow w (notePrepend n u)
  | dispatchFails (empty : s.p = []) : Effect s .dispatch (raiseError .dispatch .emptyPayload)
  | dispatches (n : NextProtocol) (nonempty : s.p ≠ []) : Effect s .dispatch (returnNext n)

/-- `run` ends by an effect, or in a refusal, that is the same in every state with the operands of `s`. -/
def EndsBy (op : Op) (run : State → Host.Outcome State Fault Refusal) (s : State) : Prop :=
  (∃ f, Effect s op f ∧ ∀ s', SameOperands op s s' → run s' = .next (f s')) ∨
  (∃ r, ∀ s', SameOperands op s s' → run s' = .refused r)

/-- Where another run agrees with this one on the states with these operands, it ends the same way. -/
theorem EndsBy.of_eq {op : Op} {run run' : State → Host.Outcome State Fault Refusal} {s : State} (h : EndsBy op run s)
    (heq : ∀ s', SameOperands op s s' → run' s' = run s') : EndsBy op run' s := by
  rcases h with ⟨f, hf, h⟩ | ⟨r, h⟩
  · exact .inl ⟨f, hf, fun s' hs => (heq s' hs).trans (h s' hs)⟩
  · exact .inr ⟨r, fun s' hs => (heq s' hs).trans (h s' hs)⟩

theorem endsBy_headerRow {i : Instr} (hi : i.port = .header) (s : State) : EndsBy .decode (exec i) s := by
  obtain ⟨fields, hv, hz, hexec⟩ := exec_headerRow hi
  by_cases hlen : s.ib.length < headerLength fields.teidFlag
  · refine .inl ⟨_, .decodeFails (e := .truncatedHeader) (by simp [statusesOf]), fun s' (hib : s.ib = s'.ib) => ?_⟩
    rw [hexec, acceptHeader, if_pos (hib ▸ hlen)]
  · refine .inl ⟨_, .decodes (h := { fields with
        contents := ⟨0, headerLength fields.teidFlag⟩
        payload := ⟨headerLength fields.teidFlag, s.ib.length - headerLength fields.teidFlag⟩ })
      ⟨hv, hz, rfl, rfl, rfl⟩ (by simp; omega), fun s' (hib : s.ib = s'.ib) => ?_⟩
    rw [hexec, acceptHeader, if_neg (hib ▸ hlen), hib]

theorem endsBy_decode (s : State) : EndsBy .decode (exec .decode) s := by
  cases hd : decodeHeader s.ib with
  | ok x =>
    refine (endsBy_headerRow (decodeHeader_port hd) s).of_eq fun s' (hib : s.ib = s'.ib) => ?_
    rw [exec_decode_of_decodeHeader (hib ▸ hd)]
  | error r =>
    refine .inl ⟨_, .decodeFails (headerError_mem r), fun s' (hib : s.ib = s'.ib) => ?_⟩
    rw [exec_decode_of_decodeHeader_error (hib ▸ hd)]

theorem endsBy_encode (s : State) : EndsBy .encode (exec .encode) s := by
  cases ht : s.operand.teidFlag with
  | none =>
    exact .inr ⟨_, fun s' ⟨hop, _⟩ => execEncode_teidFlag_unset (hop ▸ ht)⟩
  | some t =>
    cases hp : s.prependOk with
    | false => exact .inl ⟨_, .encodeFails _ hp, fun s' ⟨hop, hok⟩ => execEncode_prepend_fails (hop ▸ ht) (hok ▸ hp)⟩
    | true =>
      cases hf : readEncodeFields s.operand t with
      | error g =>
        exact .inr ⟨_, fun s' ⟨hop, hok⟩ => execEncode_field_unset (hop ▸ ht) (hok ▸ hp) (hop ▸ hf)⟩
      | ok f =>
        exact .inl ⟨_, .encodes _ _ hp, fun s' ⟨hop, hok⟩ => execEncode_writes (hop ▸ ht) (hok ▸ hp) (hop ▸ hf)⟩

theorem endsBy_classifyAs (n : NextProtocol) (s : State) : EndsBy .dispatch (classifyAs n) s := by
  rcases classifyAs_cases n s with ⟨hu, -⟩ | ⟨hu, hp, -⟩ | ⟨hu, hp, -⟩
  · exact .inr ⟨_, fun s' ⟨_, hus⟩ => withPayload_stale (hus ▸ hu) _⟩
  · refine .inl ⟨_, .dispatchFails hp, fun s' ⟨hps, hus⟩ => (withPayload_usable (hus ▸ hu) _).trans ?_⟩
    rw [if_pos (hps ▸ hp)]
  · refine .inl ⟨_, .dispatches n hp, fun s' ⟨hps, hus⟩ => (withPayload_usable (hus ▸ hu) _).trans ?_⟩
    rw [if_neg (hps ▸ hp)]

theorem endsBy_dispatch (s : State) : EndsBy .dispatch (exec .dispatch) s :=
  (endsBy_classifyAs (protocolOfNibble ((s.p.headD 0).extractLsb' 4 4)) s).of_eq fun s' ⟨hp, _⟩ =>
    hp ▸ execDispatch_eq_classifyAs s'

/-- Every instruction ends by an effect of its operation or in a refusal, and its operands alone say by which (R20, R60). -/
theorem exec_endsBy (i : Instr) (s : State) : EndsBy (operationOf i) (exec i) s := by
  cases i with
  | decode => exact endsBy_decode s
  | encode => exact endsBy_encode s
  | dispatch => exact endsBy_dispatch s
  | gtp2cH8 | gtp2cH12 => exact endsBy_headerRow rfl s
  | nextIpv4 => exact endsBy_classifyAs .ipv4 s
  | nextIpv6 => exact endsBy_classifyAs .ipv6 s
  | nextPpp => exact endsBy_classifyAs .ppp s

/-- An instruction that has a next state reached it by an effect of its operation, which it has in every state with the same
operands. -/
theorem exec_effect {i : Instr} {s t : State} (h : exec i s = .next t) :
    ∃ f, Effect s (operationOf i) f ∧ t = f s ∧ ∀ s', SameOperands (operationOf i) s s' → exec i s' = .next (f s') := by
  rcases exec_endsBy i s with ⟨f, hf, hs⟩ | ⟨r, hs⟩
  · have ht := (hs s (.refl _ s)).symm.trans h
    exact ⟨f, hf, (Host.Outcome.next.inj ht).symm, hs⟩
  · cases (hs s (.refl _ s)).symm.trans h

/-- An instruction that is refused is refused in every state with the same operands. -/
theorem exec_refused {i : Instr} {s s' : State} {r : Refusal} (h : exec i s = .refused r)
    (hs : SameOperands (operationOf i) s s') : exec i s' = .refused r := by
  rcases exec_endsBy i s with ⟨f, -, hsame⟩ | ⟨r', hsame⟩
  · cases (hsame s (.refl _ s)).symm.trans h
  · rw [hsame s' hs, ← hsame s (.refl _ s), h]

/-- No instruction faults (R60). -/
theorem exec_noFault (i : Instr) (s : State) : NoFault (exec i s) := by
  intro fault h
  rcases exec_endsBy i s with ⟨f, -, hsame⟩ | ⟨r, hsame⟩ <;> cases (hsame s (.refl _ s)).symm.trans h

/-- A DECODE that leaves a valid Header returned one whose views split IB (R31, R129). -/
theorem exec_decode_returnHeader {s t : State} (h : exec .decode s = .next t) (hv : t.hdrValid = true) :
    ∃ hd : Header, DecodedShape hd ∧ hd.contents.len + hd.payload.len = s.ib.length ∧
      t = returnHeader hd hd.contents.len s := by
  obtain ⟨f, hf, rfl, -⟩ := exec_effect h
  change Effect s .decode f at hf
  cases hf with
  | decodeFails => cases hv
  | decodes shape split => exact ⟨_, shape, split, rfl⟩

namespace Effect

variable {s : State} {op : Op} {f : State → State}

/-- What the caller may read after an effect does not depend on the state it acted on. -/
theorem readable_eq (hf : Effect s op f) (u v : State) :
    result (f u) = result (f v) ∧ (f u).hdrValid = (f v).hdrValid ∧ (f u).err = (f v).err := by
  cases hf <;> exact ⟨rfl, rfl, rfl⟩

/-- SB enters only into what SB holds afterwards. -/
theorem sb_eq (hf : Effect s op f) {u v : State} (h : u.sb = v.sb) : (f u).sb = (f v).sb := by
  cases hf <;> simp [h]

/-- No effect touches an operand of the caller, `layer_type` or the calls. -/
theorem operands_eq (hf : Effect s op f) (u : State) :
    (f u).ib = u.ib ∧ (f u).ibId = u.ibId ∧ (f u).earlier = u.earlier ∧ (f u).p = u.p ∧
      (f u).payloadSource = u.payloadSource ∧ (f u).operand = u.operand ∧ (f u).prependOk = u.prependOk ∧
      (f u).layerType = u.layerType ∧ (f u).calls = u.calls := by
  cases hf <;> exact ⟨rfl, rfl, rfl, rfl, rfl, rfl, rfl, rfl, rfl⟩

/-- The Header output and the Header held belong to DECODE (R40, R41). -/
theorem header_eq (hf : Effect s op f) (hop : op ≠ .decode) (u : State) :
    (f u).header = u.header ∧ (f u).consumedLength = u.consumedLength ∧ (f u).heldHeader = u.heldHeader ∧
      (f u).heldBuffer = u.heldBuffer ∧ (f u).hdrValid = false := by
  cases hf with
  | decodeFails | decodes => exact absurd rfl hop
  | encodeFails | encodes | dispatchFails | dispatches => exact ⟨rfl, rfl, rfl, rfl, rfl⟩

/-- `next` belongs to DISPATCH (R42). -/
theorem next_eq (hf : Effect s op f) (hop : op ≠ .dispatch) (u : State) : (f u).next = u.next := by
  cases hf with
  | dispatchFails | dispatches => exact absurd rfl hop
  | decodeFails | decodes | encodeFails | encodes => rfl

/-- SB, the window and the requests belong to ENCODE (R50, R55). -/
theorem window_eq (hf : Effect s op f) (hop : op ≠ .encode) (u : State) :
    (f u).window = u.window ∧ (f u).prependLog = u.prependLog ∧ (f u).sb = u.sb := by
  cases hf with
  | encodeFails | encodes => exact absurd rfl hop
  | decodeFails | decodes | dispatchFails | dispatches => exact ⟨rfl, rfl, rfl⟩

end Effect

end Sys2Proof.Machine

/-! The record invariant under each kind of change of the state: a result record without a Header, a decoded Header, another payload
operand, other input buffers. -/

namespace Sys2Proof.Machine

/-! ### Views of a decoded Header -/

/-- The payload view of a Header whose views split a buffer is the end of that buffer (R30, R31). -/
theorem viewBytes_payload {h : Header} {b : Bytes} (shape : DecodedShape h)
    (split : h.contents.len + h.payload.len = b.length) : viewBytes b h.payload = some (b.drop h.payload.start) := by
  have hstart : h.payload.start = h.contents.len := shape.payload_start.trans shape.contents_len.symm
  rw [viewBytes_eq_some, List.take_of_length_le (by rw [List.length_drop]; omega)]
  exact ⟨by omega, rfl⟩

namespace RecordInv

variable {s : State}

theorem held_payload {h : Header} {b : Bytes} (hi : RecordInv s) (hh : s.heldHeader = some h)
    (hb : bufferBytes s s.heldBuffer = some b) : viewBytes b h.payload = some (b.drop h.payload.start) :=
  viewBytes_payload (hi.held_shape h hh) (hi.live_views_split h b hh hb)

/-- The invariant does not speak of the caller's calls, SB, the operand of ENCODE and the environment's answers. -/
theorem frame {calls : List Call} {sb : Bytes} {operand : HeaderOperand} {prependOk : Bool} {prependLog : List Nat}
    (hi : RecordInv s) :
    RecordInv { s with calls := calls, sb := sb, operand := operand, prependOk := prependOk, prependLog := prependLog } :=
  ⟨hi.hdrValid_iff, hi.valid_is_held, hi.valid_consumed, hi.held_shape, hi.live_views_split, hi.status_of_op,
    hi.live_payload, hi.buffers_ordered, hi.held_provided, hi.payload_provided, hi.layer_constant⟩

/-- A record that says of itself that it holds no valid Header, with a status of its operation. -/
theorem invalid_record {header : Header} {err : Status} {consumedLength : Nat} {next : NextProtocol} {window : Bytes}
    {layerType : Config.LayerTag} {lastOp : Option Op} (hi : RecordInv s)
    (invalid : ¬ (lastOp = some .decode ∧ err = .ok)) (status : ∀ op, lastOp = some op → err ∈ statusesOf op)
    (layer : layerType = Config.layerTypeGtpv2c) :
    RecordInv { s with header := header, hdrValid := false, err := err, consumedLength := consumedLength, next := next
                       window := window, layerType := layerType, lastOp := lastOp } :=
  ⟨by simpa using invalid, nofun, nofun, hi.held_shape, hi.live_views_split, status,
    hi.live_payload, hi.buffers_ordered, hi.held_provided, hi.payload_provided, layer⟩

theorem raiseError {op : Op} {e : ErrorKind} (hi : RecordInv s) (status : .error e ∈ statusesOf op) :
    RecordInv (raiseError op e s) :=
  hi.invalid_record (by simp) (by rintro _ ⟨⟩; exact status) hi.layer_constant

theorem resetRecord (hi : RecordInv s) : RecordInv (resetRecord s) :=
  hi.invalid_record (by simp [State.reset]) nofun rfl

/-- DECODE returns a Header whose views split IB. -/
theorem returnHeader {h : Header} (hi : RecordInv s) (shape : DecodedShape h)
    (split : h.contents.len + h.payload.len = s.ib.length) : RecordInv (returnHeader h h.contents.len s) where
  hdrValid_iff := by simp
  valid_is_held := by simp
  valid_consumed := by simp
  held_shape := by rintro _ ⟨⟩; exact shape
  live_views_split := by
    rintro _ b ⟨⟩ hb
    obtain rfl : s.ib = b := by simpa using hb
    exact split
  status_of_op := by rintro _ ⟨⟩; simp [statusesOf]
  live_payload := hi.live_payload
  buffers_ordered := hi.buffers_ordered
  held_provided := le_rfl
  payload_provided := hi.payload_provided
  layer_constant := hi.layer_constant

theorem returnWindow (w : Bytes) (hi : RecordInv s) : RecordInv (returnWindow w s) :=
  (hi.invalid_record (lastOp := some .encode) (by simp) (by rintro _ ⟨⟩; simp [statusesOf]) hi.layer_constant).frame

theorem returnNext (n : NextProtocol) (hi : RecordInv s) : RecordInv (returnNext n s) :=
  hi.invalid_record (by simp) (by rintro _ ⟨⟩; simp [statusesOf]) hi.layer_constant

/-- A new payload operand that is the caller's own, or the end of the standing buffer it is a view of. -/
theorem setPayload {source : PayloadSource} {bytes : Bytes} (hi : RecordInv s)
    (view : ∀ n, source = .viewOf n → n ≤ s.ibId ∧ ∀ b, bufferBytes s n = some b → bytes <:+ b) :
    RecordInv (setPayload source bytes s) :=
  ⟨hi.hdrValid_iff, hi.valid_is_held, hi.valid_consumed, hi.held_shape, hi.live_views_split, hi.status_of_op,
    fun n b hn => (view n hn).2 b, hi.buffers_ordered, hi.held_provided, fun n hn => (view n hn).1, hi.layer_constant⟩

/-- Other input buffers, none of whose numbers stood for other bytes before. -/
theorem other_buffers {ib : Bytes} {ibId : Nat} {earlier : List (Nat × Bytes)} (hi : RecordInv s) (later : s.ibId ≤ ibId)
    (ordered : ((liveBuffers { s with ib := ib, ibId := ibId, earlier := earlier }).map (·.1)).Pairwise (· > ·))
    (kept : ∀ n b, n ≤ s.ibId → bufferBytes { s with ib := ib, ibId := ibId, earlier := earlier } n = some b →
      bufferBytes s n = some b) :
    RecordInv { s with ib := ib, ibId := ibId, earlier := earlier } :=
  ⟨hi.hdrValid_iff, hi.valid_is_held, hi.valid_consumed, hi.held_shape,
    fun h b hh hb => hi.live_views_split h b hh (kept _ b hi.held_provided hb), hi.status_of_op,
    fun n b hn hb => hi.live_payload n b hn (kept n b (hi.payload_provided n hn) hb), ordered,
    hi.held_provided.trans later, fun n hn => (hi.payload_provided n hn).trans later, hi.layer_constant⟩

theorem giveInput (data : Bytes) (hi : RecordInv s) : RecordInv (giveInput data s) :=
  hi.other_buffers (Nat.le_succ _) (liveBuffers_ordered hi.buffers_ordered (.inl ⟨data, rfl⟩)) fun _ _ hn hb =>
    (bufferBytes_giveInput data hn).symm.trans hb

theorem overwriteInput (data : Bytes) (hi : RecordInv s) : RecordInv (overwriteInput data s) :=
  hi.other_buffers (Nat.le_succ _) (liveBuffers_ordered hi.buffers_ordered (.inr (.inl ⟨data, rfl⟩))) fun _ _ hn hb =>
    (Option.ite_none_left_eq_some.mp ((bufferBytes_overwriteInput data hi.buffers_ordered hn).symm.trans hb)).2

theorem releaseBuffer (released : Nat) (hi : RecordInv s) : RecordInv (releaseBuffer released s) := by
  by_cases hr : released = s.ibId
  · rw [Machine.releaseBuffer, if_pos hr]
    exact hi.overwriteInput []
  · have ordered := liveBuffers_ordered hi.buffers_ordered (.inr (.inr ⟨released, rfl⟩))
    have gone := fun n hn => bufferBytes_releaseBuffer (buffer := n) (released := released) hi.buffers_ordered hn
    simp only [Machine.releaseBuffer, if_neg hr] at ordered gone ⊢
    exact hi.other_buffers le_rfl ordered fun n b hn hb =>
      (Option.ite_none_left_eq_some.mp ((gone n hn).symm.trans hb)).2

end RecordInv

end Sys2Proof.Machine

/-! What a step and the caller's calls run, said once: the ports, the framework's chain, the moves that read a Header. -/

namespace Sys2Proof.Machine

/-- `step_call` for a state written with its pending call. -/
theorem step_pending (s : State) (c : Call) (rest : List Call) :
    step { s with calls := c :: rest } = performCall c { s with calls := rest } := rfl

theorem step_cases (s : State) :
    (s.calls = [] ∧ step s = .next s) ∨ ∃ c rest, s.calls = c :: rest ∧ step s = performCall c { s with calls := rest } := by
  cases hc : s.calls with
  | nil => exact .inl ⟨rfl, by simp [step, hc]⟩
  | cons c rest => exact .inr ⟨c, rest, rfl, step_call hc⟩

@[simp] theorem performCall_command (op : BitVec 2) (s : State) : performCall (.command op) s = runCommand op s := rfl

@[simp] theorem performCall_decodeEntry (s : State) : performCall .decodeEntry s = exec .decode s :=
  (execDecode_eq_runHeaderEntry s).symm

@[simp] theorem performCall_dispatchEntry (s : State) : performCall .dispatchEntry s = exec .dispatch s :=
  (execDispatch_eq_runPayloadEntry s).symm

@[simp] theorem performCall_nextLayerType (s : State) :
    performCall .nextLayerType s = withPayloadView s (exec .dispatch) := rfl

@[simp] theorem performCall_decodeChain (s : State) : performCall .decodeChain s = runDecodeChain s := rfl

@[simp] theorem performCall_givePayloadView (s : State) : performCall .givePayloadView s = withPayloadView s .next := rfl

/-- The command port runs an instruction or refuses (R100). -/
theorem runCommand_cases (op : BitVec 2) (s : State) :
    (∃ i, decodeCommand op = .ok i ∧ runCommand op s = exec i s) ∨ runCommand op s = .refused .reservedCommand := by
  unfold runCommand
  split
  · exact .inl ⟨_, by assumption, rfl⟩
  · exact .inr rfl

/-- The chain is DECODE, and on success one more call to make (R165). -/
theorem runDecodeChain_cases (s : State) :
    (∃ t, exec .decode s = .next t ∧
      runDecodeChain s = .next (if t.err = .ok then { t with calls := .nextLayerType :: t.calls } else t)) ∨
    ∃ r, runDecodeChain s = .refused r := by
  cases h : exec .decode s with
  | next t => exact .inl ⟨t, rfl, by simp only [runDecodeChain, h]⟩
  | fault f => exact absurd h (exec_noFault _ _ f)
  | refused r => exact .inr ⟨r, by simp only [runDecodeChain, h]⟩

/-- Without a Header there is nothing to read (R49, U13). -/
theorem withHeldHeader_none {s : State} (h : s.heldHeader = none) (k : Header → Host.Outcome State Fault Refusal) :
    withHeldHeader s k = .refused .noHeaderHeld := by
  simp only [withHeldHeader, h]

theorem releaseBuffer_frame (released : Nat) (s : State) :
    (releaseBuffer released s).calls = s.calls ∧ (releaseBuffer released s).heldHeader = s.heldHeader ∧
      (releaseBuffer released s).heldBuffer = s.heldBuffer ∧ (releaseBuffer released s).p = s.p ∧
      (releaseBuffer released s).payloadSource = s.payloadSource := by
  unfold releaseBuffer
  split <;> exact ⟨rfl, rfl, rfl, rfl, rfl⟩

end Sys2Proof.Machine

/-! The obligations on reset, the record invariant and a step. -/

namespace Sys2Proof.Machine

/-! ### The invariant along an instruction, a call and a step -/

theorem Effect.keeps_recordInv {s : State} {op : Op} {f : State → State} (hf : Effect s op f) (hi : RecordInv s) :
    RecordInv (f s) := by
  cases hf with
  | decodeFails status => exact hi.raiseError status
  | decodes shape split => exact hi.returnHeader shape split
  | encodeFails n => exact RecordInv.raiseError (s := notePrepend n s) hi.frame (by simp [statusesOf])
  | encodes n w => exact RecordInv.returnWindow (s := notePrepend n s) w hi.frame
  | dispatchFails => exact hi.raiseError (by simp [statusesOf])
  | dispatches n => exact hi.returnNext n

theorem exec_keeps_recordInv {i : Instr} {s t : State} (hi : RecordInv s) (h : exec i s = .next t) : RecordInv t := by
  obtain ⟨f, hf, rfl, -⟩ := exec_effect h
  exact hf.keeps_recordInv hi

/-- The operand formed from the payload view of the Header held is the end of a standing buffer. -/
theorem withPayloadView_keeps_recordInv {s t : State} {k : State → Host.Outcome State Fault Refusal} (hi : RecordInv s)
    (hk : ∀ u, RecordInv u → k u = .next t → RecordInv t) (h : withPayloadView s k = .next t) : RecordInv t := by
  obtain ⟨hd, buffer, bytes, hh, hb, hv, hkt⟩ := withPayloadView_eq_next h
  obtain rfl : buffer.drop hd.payload.start = bytes := Option.some.inj ((hi.held_payload hh hb).symm.trans hv)
  refine hk _ (hi.setPayload ?_) hkt
  rintro _ ⟨⟩
  refine ⟨hi.held_provided, fun b hb' => ?_⟩
  obtain rfl : buffer = b := Option.some.inj (hb.symm.trans hb')
  exact List.drop_suffix _ _

theorem performCall_keeps_recordInv {c : Call} {s t : State} (hi : RecordInv s) (h : performCall c s = .next t) :
    RecordInv t := by
  cases c with
  | command op =>
    rcases runCommand_cases op s with ⟨i, -, hrun⟩ | hrun
    · exact exec_keeps_recordInv hi (hrun.symm.trans h)
    · cases hrun.symm.trans h
  | decodeEntry => exact exec_keeps_recordInv hi ((performCall_decodeEntry s).symm.trans h)
  | dispatchEntry => exact exec_keeps_recordInv hi ((performCall_dispatchEntry s).symm.trans h)
  | nextLayerType => exact withPayloadView_keeps_recordInv hi (fun _ hu => exec_keeps_recordInv hu) h
  | decodeChain =>
    rcases runDecodeChain_cases s with ⟨u, hu, hrun⟩ | ⟨r, hrun⟩
    · have hiu := exec_keeps_recordInv hi hu
      obtain rfl := Host.Outcome.next.inj (hrun.symm.trans h)
      split
      · exact hiu.frame
      · exact hiu
    · cases hrun.symm.trans h
  | giveInput data => cases h; exact hi.giveInput data
  | overwriteInput data => cases h; exact hi.overwriteInput data
  | releaseBuffer released => cases h; exact hi.releaseBuffer released
  | giveSerializedAsInput => cases h; exact hi.giveInput s.sb
  | giveSerializeBuffer content => cases h; exact hi.frame
  | giveHeader operand => cases h; exact hi.frame
  | giveDecodedHeader =>
    obtain ⟨hd, -, ht⟩ := withHeldHeader_eq_next h
    cases ht
    exact hi.frame
  | givePayload p => cases h; exact hi.setPayload nofun
  | givePayloadView => exact withPayloadView_keeps_recordInv hi (fun _ hu ht => Host.Outcome.next.inj ht ▸ hu) h
  | answerPrepend ok => cases h; exact hi.frame
  | resetBlock => cases h; exact hi.resetRecord

/-- Settles O3, by the effects of the instructions and the rule of each of the caller's moves. -/
theorem stepKeepsRecordInv : Obligations.StepKeepsRecordInv := by
  intro s t hi h
  rcases step_cases s with ⟨-, hstep⟩ | ⟨c, rest, -, hstep⟩
  · exact Host.Outcome.next.inj (hstep.symm.trans h) ▸ hi
  · exact performCall_keeps_recordInv hi.frame (hstep.symm.trans h)

/-- Settles O1: the values of reset. -/
theorem resetHasNoReadableResult : Obligations.ResetHasNoReadableResult :=
  ⟨rfl, rfl, rfl, rfl⟩

/-- Settles O2: nothing is held, no operation ran, and IB is the only buffer. -/
theorem resetMeetsRecordInv : Obligations.ResetMeetsRecordInv where
  hdrValid_iff := by simp [State.reset]
  valid_is_held := nofun
  valid_consumed := nofun
  held_shape := nofun
  live_views_split := nofun
  status_of_op := nofun
  live_payload := nofun
  buffers_ordered := by simp [liveBuffers, State.reset]
  held_provided := le_rfl
  payload_provided := nofun
  layer_constant := rfl

/-- Settles O7: the branch of `step` with no call pending. -/
theorem idleStepChangesNothing : Obligations.IdleStepChangesNothing := by
  intro s hcalls
  rcases step_cases s with ⟨-, hstep⟩ | ⟨c, rest, hpending, -⟩
  · exact hstep
  · rw [hcalls] at hpending
    cases hpending

/-! ### No step faults -/

theorem withHeldHeader_noFault {s : State} {k : Header → Host.Outcome State Fault Refusal}
    (hk : ∀ h, s.heldHeader = some h → NoFault (k h)) : NoFault (withHeldHeader s k) := by
  unfold withHeldHeader
  split
  · nofun
  · exact hk _ (by assumption)

/-- A held Header's views lie inside their buffer while it stands (R31). -/
theorem withPayloadView_noFault {s : State} {k : State → Host.Outcome State Fault Refusal} (hi : RecordInv s)
    (hk : ∀ u, NoFault (k u)) : NoFault (withPayloadView s k) := by
  refine withHeldHeader_noFault fun h hh => ?_
  split
  · nofun
  · rw [hi.held_payload hh (by assumption)]
    exact hk _

theorem performCall_noFault {s : State} (hi : RecordInv s) (c : Call) : NoFault (performCall c s) := by
  cases c with
  | command op =>
    rw [performCall_command]
    rcases runCommand_cases op s with ⟨i, -, hrun⟩ | hrun
    · exact hrun ▸ exec_noFault i s
    · exact hrun ▸ nofun
  | decodeEntry => exact performCall_decodeEntry s ▸ exec_noFault .decode s
  | dispatchEntry => exact performCall_dispatchEntry s ▸ exec_noFault .dispatch s
  | nextLayerType => exact withPayloadView_noFault hi (exec_noFault .dispatch)
  | decodeChain =>
    rw [performCall_decodeChain]
    rcases runDecodeChain_cases s with ⟨u, -, hrun⟩ | ⟨r, hrun⟩
    · exact hrun ▸ nofun
    · exact hrun ▸ nofun
  | giveDecodedHeader => exact withHeldHeader_noFault fun _ _ => nofun
  | givePayloadView => exact withPayloadView_noFault hi fun _ => nofun
  | giveInput | overwriteInput | releaseBuffer | giveSerializedAsInput | giveSerializeBuffer | giveHeader | givePayload
  | answerPrepend | resetBlock => nofun

/-- Settles O38: instructions never fault, and the views the caller uses lie inside their buffers. -/
theorem stepNeverFaults : Obligations.StepNeverFaults := by
  intro s hi
  rcases step_cases s with ⟨-, hstep⟩ | ⟨c, rest, -, hstep⟩
  · exact hstep ▸ nofun
  · exact hstep ▸ performCall_noFault hi.frame c

end Sys2Proof.Machine

/-! The obligations on frames, on independence and on what DECODE returns, from the effects of the instructions. -/

namespace Sys2Proof.Machine

/-- Settles O41: no effect touches an operand. -/
theorem operandsAreNeverWritten : Obligations.OperandsAreNeverWritten := by
  intro i s t h
  obtain ⟨f, hf, rfl, -⟩ := exec_effect h
  exact hf.operands_eq s

/-- Settles O42: each register belongs to the effects of one operation. -/
theorem resultsAreWrittenByTheirOwnOperation : Obligations.ResultsAreWrittenByTheirOwnOperation := by
  intro i s t h
  obtain ⟨f, hf, rfl, -⟩ := exec_effect h
  rw [← operationOf_eq_decode, ← operationOf_eq_dispatch, ← operationOf_eq_encode]
  refine ⟨or_iff_not_imp_left.mpr fun hop => hf.header_eq hop s, or_iff_not_imp_left.mpr fun hop => hf.next_eq hop s,
    or_iff_not_imp_left.mpr fun hop => ?_⟩
  obtain ⟨hwindow, hlog, hsb⟩ := hf.window_eq hop s
  exact ⟨hwindow, hlog, fun k => by rw [hsb]⟩

/-- Operands that agree give the same outcome. -/
theorem sameOutcome_of_sameOperands {i : Instr} {s s' : State} (hs : SameOperands (operationOf i) s s') :
    SameOutcome i s s' := by
  refine ⟨fun t h => ?_, fun r h => exec_refused h hs⟩
  obtain ⟨f, hf, rfl, same⟩ := exec_effect h
  exact ⟨f s', same s' hs, hf.readable_eq s' s⟩

/-- Operands and SB that agree leave the same SB. -/
theorem exec_sb_eq {i : Instr} {s s' t t' : State} (hs : SameOperands (operationOf i) s s') (hsb : s.sb = s'.sb)
    (h : exec i s = .next t) (h' : exec i s' = .next t') : t.sb = t'.sb := by
  obtain ⟨f, hf, rfl, same⟩ := exec_effect h
  obtain rfl := Host.Outcome.next.inj ((same s' hs).symm.trans h')
  exact hf.sb_eq hsb

/-- Settles O43, with the operands of each operation. -/
theorem resultsDependOnOperandsAlone : Obligations.ResultsDependOnOperandsAlone := by
  intro i s s'
  rw [← operationOf_eq_decode, ← operationOf_eq_dispatch, ← operationOf_eq_encode]
  refine ⟨fun hi hib => ?_, fun hi hp hu => ?_, fun hi hop hok => ?_⟩
  · exact sameOutcome_of_sameOperands (hi ▸ hib)
  · exact sameOutcome_of_sameOperands (hi ▸ ⟨hp, hu⟩)
  · have hs : SameOperands (operationOf i) s s' := hi ▸ ⟨hop, hok⟩
    exact ⟨sameOutcome_of_sameOperands hs, fun hsb _ _ => exec_sb_eq hs hsb⟩

/-- Settles O44: a reset leaves every operand and SB alone. -/
theorem operationAfterResetBehavesTheSame : Obligations.OperationAfterResetBehavesTheSame := by
  intro i s u t rest hu h
  obtain rfl : resetRecord { s with calls := rest } = u := Host.Outcome.next.inj hu
  have hs := sameOperands_resetRecord (operationOf i) { s with calls := rest }
  obtain ⟨t', h', hresult, -⟩ := (sameOutcome_of_sameOperands hs).1 t h
  exact ⟨rfl, rfl, t', h', hresult, (exec_sb_eq hs rfl h h').symm⟩

/-! ### DECODE -/

/-- Settles O17: the shape and the split of `exec_decode_returnHeader`. -/
theorem decodedViewsSplitTheInput : Obligations.DecodedViewsSplitTheInput := by
  intro s t h hv
  obtain ⟨hd, shape, split, rfl⟩ := exec_decode_returnHeader h hv
  refine ⟨shape, ?_, shape.payload_start.trans shape.contents_len.symm, split, rfl⟩
  rw [validHeader, beq_iff_eq]
  exact shape.version_supported

/-- A header row over a buffer that begins with its bytes returns its fields and the rest as payload. -/
theorem acceptHeader_of_append {s : State} {hdr tail : Bytes} (fields : Header) (h : s.ib = hdr ++ tail) :
    acceptHeader hdr.length fields s =
      returnHeader { fields with contents := ⟨0, hdr.length⟩, payload := ⟨hdr.length, tail.length⟩ } hdr.length s := by
  rw [acceptHeader, if_neg (by simp [h]), h, List.length_append, Nat.add_sub_cancel_left]

/-- Two header rows with the same fields and length differ in nothing that DECODE keeps. -/
theorem exec_decode_of_same_fields {i i' : Instr} {hdr hdr' tail : Bytes} {fields : Header} (s : State)
    (fetch : decodeHeader (hdr ++ tail) = .ok (i, tail)) (fetch' : decodeHeader (hdr' ++ tail) = .ok (i', tail))
    (row : ∀ u, exec i u = .next (acceptHeader hdr.length fields u))
    (row' : ∀ u, exec i' u = .next (acceptHeader hdr.length fields u)) (length_eq : hdr'.length = hdr.length) :
    ∃ t, exec .decode { s with ib := hdr ++ tail } = .next t ∧ t.err = .ok ∧
      exec .decode { s with ib := hdr' ++ tail } = .next { t with ib := hdr' ++ tail } := by
  refine ⟨_, (exec_decode_of_decodeHeader fetch).trans (row _), ?_, ?_⟩
  · rw [acceptHeader_of_append fields rfl, returnHeader_err]
  · rw [exec_decode_of_decodeHeader (s := { s with ib := hdr' ++ tail }) fetch', row', ← length_eq,
      acceptHeader_of_append fields rfl, length_eq, acceptHeader_of_append fields rfl]
    rfl

/-- Settles O15: DECODE runs the rows, and those drop the reserved bits and the spare byte. -/
theorem decodeIgnoresReservedBitsAndSpare : Obligations.DecodeIgnoresReservedBitsAndSpare := by
  intro s p r r' mt ml tid seq z z' tail
  constructor
  · exact exec_decode_of_same_fields s (decodeHeader_encode_H8 p r mt ml seq z tail)
      (decodeHeader_encode_H8 p r' mt ml seq z' tail) (fun _ => rfl) (fun _ => rfl) rfl
  · exact exec_decode_of_same_fields s (decodeHeader_encode_H12 p r mt ml tid seq z tail)
      (decodeHeader_encode_H12 p r' mt ml tid seq z' tail) (fun _ => rfl) (fun _ => rfl) rfl

end Sys2Proof.Machine

/-! The obligation on canonical bytes: the window of ENCODE as a function of the Header, and back. -/

namespace Sys2Proof.Machine

/-- What ENCODE reads of a Header; `teid` counts only when T is set (R148). -/
def encodeFieldsOf (h : Header) : EncodeFields :=
  { version := h.version, piggybackingFlag := h.piggybackingFlag, messageType := h.messageType
    messageLength := h.messageLength, teid := if h.teidFlag then h.teid else 0, sequenceNumber := h.sequenceNumber }

/-- The bytes that ENCODE gives for a Header. -/
def wireBytes (h : Header) : Bytes := headerBytes h.teidFlag (encodeFieldsOf h)

theorem readEncodeFields_operandOfHeader (h : Header) :
    readEncodeFields (operandOfHeader h) h.teidFlag = .ok (encodeFieldsOf h) := by
  rw [readEncodeFields_eq_ok]
  cases ht : h.teidFlag <;> simp [operandOfHeader, encodeFieldsOf, ht]

theorem exec_encode_operandOfHeader {s : State} {h : Header} (hop : s.operand = operandOfHeader h)
    (hok : s.prependOk = true) :
    exec .encode s = .next (returnWindow (wireBytes h) (notePrepend (headerLength h.teidFlag) s)) :=
  execEncode_writes (congrArg HeaderOperand.teidFlag hop) hok (hop ▸ readEncodeFields_operandOfHeader h)

theorem exec_encode_prepend_fails_err {s t : State} {h : Header} (hop : s.operand = operandOfHeader h)
    (hok : s.prependOk = false) (hex : exec .encode s = .next t) : t.err = .error .bufferAllocationFailure := by
  have := execEncode_prepend_fails (congrArg HeaderOperand.teidFlag hop) hok
  obtain rfl := Host.Outcome.next.inj (this.symm.trans hex)
  rfl

/-- A successful ENCODE of a Header returns that Header's bytes. -/
theorem window_eq_wireBytes {s t : State} {h : Header} (hop : s.operand = operandOfHeader h)
    (hex : exec .encode s = .next t) (herr : t.err = .ok) : t.window = wireBytes h := by
  cases hok : s.prependOk with
  | false => simp [exec_encode_prepend_fails_err hop hok hex] at herr
  | true =>
    obtain rfl := Host.Outcome.next.inj ((exec_encode_operandOfHeader hop hok).symm.trans hex)
    rfl

theorem halfBytes_injective {v w : BitVec 16} (h : halfBytes v = halfBytes w) : v = w := by
  simp only [halfBytes, List.cons.injEq, and_true] at h
  obtain ⟨high, low⟩ := h
  rw [← append_halfBytes v, ← append_halfBytes w, high, low]

theorem sequenceBytes_injective {v w : BitVec 24} (h : sequenceBytes v = sequenceBytes w) : v = w := by
  simp only [sequenceBytes, List.cons.injEq, and_true] at h
  obtain ⟨high, mid, low⟩ := h
  rw [← append_sequenceBytes v, ← append_sequenceBytes w, high, mid, low]

theorem teidBytes_injective {v w : BitVec 32} (h : teidBytes v = teidBytes w) : v = w := by
  simp only [teidBytes, List.cons.injEq, and_true] at h
  obtain ⟨b3, b2, b1, b0⟩ := h
  rw [← append_teidBytes v, ← append_teidBytes w, b3, b2, b1, b0]

theorem byte0Of_injective {v v' : BitVec 3} {p p' t t' : Bool} (h : byte0Of v p t = byte0Of v' p' t') :
    v = v' ∧ p = p' ∧ t = t' :=
  ⟨by simpa using congrArg versionOf h, by simpa using congrArg piggybackOf h, by simpa using congrArg teidFlagOf h⟩

/-- Headers with the same bytes are equal on the wire (R35, R98). -/
theorem wireEq_of_wireBytes_eq {h k : Header} (heq : wireBytes h = wireBytes k) : wireEq h k = true := by
  obtain ⟨hbyte0, hbytes⟩ := List.cons.inj heq
  obtain ⟨hmt, hrest⟩ := List.cons.inj hbytes
  obtain ⟨hv, hp, ht⟩ := byte0Of_injective hbyte0
  obtain ⟨hleft, hseq⟩ := List.append_inj' (List.append_cancel_right hrest) rfl
  obtain ⟨hml, htid⟩ := List.append_inj hleft rfl
  have hteid : h.teidFlag = true → h.teid = k.teid := fun hT => by
    have hK : k.teidFlag = true := ht ▸ hT
    simp only [encodeFieldsOf, hT, hK, if_true] at htid
    exact teidBytes_injective htid
  simp only [encodeFieldsOf] at hv hp hmt hml hseq
  cases hT : h.teidFlag <;>
    simp [wireEq, hv, hp, hmt, halfBytes_injective hml, sequenceBytes_injective hseq, ← ht, hT, hteid]

/-- The bytes of a valid Header are canonical (R98). -/
theorem canonicalBytes_wireBytes {h : Header} (hv : validHeader h = true) : canonicalBytes (wireBytes h) = true := by
  have hv2 : h.version = 2 := by simpa [validHeader] using hv
  cases ht : h.teidFlag <;>
    simp [canonicalBytes, wireBytes, headerBytes, encodeFieldsOf, headerLength, halfBytes, teidBytes, sequenceBytes, ht, hv2]

theorem byte0Of_parts (b0 : Byte) (h : reservedOf b0 = 0) :
    byte0Of (versionOf b0) (piggybackOf b0) (teidFlagOf b0) = b0 := by
  revert b0; decide

theorem extract_append_low {n : Nat} (x : BitVec n) (y : Byte) : (x ++ y).extractLsb' 0 8 = y := by
  apply BitVec.eq_of_toNat_eq
  have := y.isLt
  rw [BitVec.extractLsb'_toNat, toNat_append_byte, Nat.shiftRight_zero]
  omega

theorem extract_append_high {n : Nat} (x : BitVec n) (y : Byte) (k m : Nat) :
    (x ++ y).extractLsb' (k + 8) m = x.extractLsb' k m := by
  apply BitVec.eq_of_toNat_eq
  have dropped : (x.toNat * 256 + y.toNat) >>> 8 = x.toNat := by
    have := y.isLt
    rw [Nat.shiftRight_eq_div_pow]
    omega
  rw [BitVec.extractLsb'_toNat, BitVec.extractLsb'_toNat, toNat_append_byte, Nat.add_comm k, Nat.shiftRight_add, dropped]

theorem halfBytes_append (a b : Byte) : halfBytes (a ++ b) = [a, b] := by
  simp [halfBytes, extract_append_low, extract_append_high]

theorem sequenceBytes_append (a b c : Byte) : sequenceBytes (a ++ b ++ c) = [a, b, c] := by
  simp [sequenceBytes, extract_append_low, extract_append_high]

theorem teidBytes_append (a b c d : Byte) : teidBytes (a ++ b ++ c ++ d) = [a, b, c, d] := by
  simp [teidBytes, extract_append_low, extract_append_high]

/-- Canonical bytes are the bytes of the valid Header that they parse to (R98). -/
theorem exists_wireBytes_eq {b : Bytes} (hb : canonicalBytes b = true) :
    ∃ h : Header, validHeader h = true ∧ wireBytes h = b := by
  match b with
  | [] => simp [canonicalBytes] at hb
  | b0 :: rest =>
    obtain ⟨⟨⟨hv, hr⟩, hlen⟩, hspare⟩ : ((versionOf b0 = 2 ∧ reservedOf b0 = 0) ∧
        (b0 :: rest).length = headerLength (teidFlagOf b0)) ∧ (b0 :: rest).getLast? = some 0 := by
      simpa only [canonicalBytes, Bool.and_eq_true, beq_iff_eq] using hb
    have hbyte0 := byte0Of_parts b0 hr
    cases ht : teidFlagOf b0 with
    | false =>
      rw [ht] at hlen hbyte0
      match rest, hlen with
      | [b1, b2, b3, b4, b5, b6, b7], _ =>
        obtain rfl : b7 = 0 := by simpa using hspare
        refine ⟨{ Header.zeros with version := versionOf b0, piggybackingFlag := piggybackOf b0, teidFlag := false
                                    messageType := b1, messageLength := b2 ++ b3, sequenceNumber := b4 ++ b5 ++ b6 },
          by simp [validHeader, hv], ?_⟩
        simp [wireBytes, headerBytes, encodeFieldsOf, hbyte0, halfBytes_append, sequenceBytes_append]
    | true =>
      rw [ht] at hlen hbyte0
      match rest, hlen with
      | [b1, b2, b3, b4, b5, b6, b7, b8, b9, b10, b11], _ =>
        obtain rfl : b11 = 0 := by simpa using hspare
        refine ⟨{ Header.zeros with version := versionOf b0, piggybackingFlag := piggybackOf b0, teidFlag := true
                                    messageType := b1, messageLength := b2 ++ b3, teid := b4 ++ b5 ++ b6 ++ b7
                                    sequenceNumber := b8 ++ b9 ++ b10 },
          by simp [validHeader, hv], ?_⟩
        simp [wireBytes, headerBytes, encodeFieldsOf, hbyte0, halfBytes_append, sequenceBytes_append, teidBytes_append]

/-- Settles O26: the window is the Header's bytes, which are canonical, reach every canonical string and fix the Header up to `=w`. -/
theorem canonicalBytesAreExactlyTheEncodings : Obligations.CanonicalBytesAreExactlyTheEncodings := by
  refine ⟨fun s t h hv hop hex herr => ?_, fun b hb => ?_, fun s s' t t' h h' _ _ hop hop' hex hex' herr herr' heq => ?_⟩
  · exact window_eq_wireBytes hop hex herr ▸ canonicalBytes_wireBytes hv
  · obtain ⟨h, hv, rfl⟩ := exists_wireBytes_eq hb
    exact ⟨h, hv, fun s hop hok => ⟨_, exec_encode_operandOfHeader hop hok, rfl, rfl⟩⟩
  · rw [window_eq_wireBytes hop hex herr, window_eq_wireBytes hop' hex' herr'] at heq
    exact wireEq_of_wireBytes_eq heq

end Sys2Proof.Machine

/-! The obligations on the boundary with the caller: the payload view, the capabilities, the views of buffers that are gone. -/

namespace Sys2Proof.Machine

/-! ### The payload view of the Header held -/

/-- Settles O45: the view of a decoded Header splits IB, which still stands. -/
theorem payloadViewIsTheRestOfTheInput : Obligations.PayloadViewIsTheRestOfTheInput := by
  intro s t rest h hv
  obtain ⟨hd, shape, split, rfl⟩ := exec_decode_returnHeader h hv
  rw [step_pending, performCall_givePayloadView]
  refine (withPayloadView_live rfl (bufferBytes_ibId s) (viewBytes_payload shape split) _).trans ?_
  rw [shape.payload_start, ← shape.contents_len]
  rfl

/-- A usable payload that is not empty is dispatched. -/
theorem exec_dispatch_of_nonempty {s : State} (hu : payloadUsable s = true) (hp : s.p ≠ []) :
    ∃ n, exec .dispatch s = .next (returnNext n s) :=
  ⟨_, (execDispatch_eq_classifyAs s).trans ((withPayload_usable hu _).trans (by rw [if_neg hp]))⟩

/-- `nextLayerType()` is DISPATCH on the end of the standing buffer that the view describes. -/
theorem step_nextLayerType_live {s : State} {h : Header} {buffer : Bytes} (rest : List Call) (hi : RecordInv s)
    (hh : s.heldHeader = some h) (hb : bufferBytes s s.heldBuffer = some buffer) :
    step { s with calls := .nextLayerType :: rest } =
      exec .dispatch (setPayload (.viewOf s.heldBuffer) (buffer.drop h.payload.start) { s with calls := rest }) := by
  rw [step_pending, performCall_nextLayerType]
  exact withPayloadView_live (s := { s with calls := rest }) hh hb (hi.held_payload hh hb) _

/-- Settles O49: the tag is constant, and the view is dispatched by `step_nextLayerType_live`. -/
theorem capabilitiesReportTheTags : Obligations.CapabilitiesReportTheTags := by
  intro s hi
  refine ⟨hi.layer_constant, congrArg (fun tag => [tag]) hi.layer_constant, fun h buffer rest hh hb => ?_⟩
  have shape := hi.held_shape h hh
  have length_eq : (buffer.drop h.payload.start).length = h.payload.len := by
    have split := hi.live_views_split h buffer hh hb
    rw [List.length_drop, shape.payload_start, ← shape.contents_len]
    omega
  have run := step_nextLayerType_live rest hi hh hb
  refine ⟨_, hi.held_payload hh hb, length_eq, run, fun hpos => ?_⟩
  have usable : payloadUsable (setPayload (.viewOf s.heldBuffer) (buffer.drop h.payload.start) { s with calls := rest }) =
      true := (payloadUsable_viewOf rfl).trans (by simp [hb])
  obtain ⟨n, hn⟩ := exec_dispatch_of_nonempty usable (List.ne_nil_of_length_pos (length_eq ▸ hpos))
  exact ⟨_, run.trans hn, rfl, rfl⟩

/-! ### Buffers that are gone -/

/-- Where one buffer is gone, the operands formed from its views are unusable, and no others. -/
theorem payloadUsable_of_gone {s u : State} {gone : Nat} (hi : RecordInv s) (source : u.payloadSource = s.payloadSource)
    (buffers : ∀ n, n ≤ s.ibId → bufferBytes u n = if n = gone then none else bufferBytes s n) :
    (s.payloadSource = .viewOf gone → payloadUsable u = false) ∧
      (s.payloadSource ≠ .viewOf gone → payloadUsable u = payloadUsable s) := by
  refine ⟨fun hs => ?_, fun hs => ?_⟩
  · rw [payloadUsable_viewOf (source.trans hs), buffers gone (hi.payload_provided gone hs), if_pos rfl, Option.isSome_none]
  · cases hsrc : s.payloadSource with
    | callerBytes => rw [payloadUsable_callerBytes hsrc, payloadUsable_callerBytes (source.trans hsrc)]
    | viewOf n =>
      have hn : n ≠ gone := fun h => hs (h ▸ hsrc)
      rw [payloadUsable_viewOf hsrc, payloadUsable_viewOf (source.trans hsrc), buffers n (hi.payload_provided n hsrc),
        if_neg hn]

/-- DISPATCH and the payload rows refuse an operand whose buffer is gone (R198, R215). -/
theorem exec_stale {i : Instr} {s : State} (hi : i = .dispatch ∨ i.port = .payload) (hu : payloadUsable s = false) :
    exec i s = .refused .staleView := by
  obtain ⟨n, hn⟩ := exec_eq_classifyAs hi s
  rw [hn, classifyAs, withPayload_stale hu]

/-- Overwriting IB and releasing a buffer make that buffer gone and no other, and keep what the caller holds. -/
theorem performCall_gone {s : State} {c : Call} {data : Bytes} {gone : Nat} (hi : RecordInv s)
    (hc : (c = .overwriteInput data ∧ gone = s.ibId) ∨ c = .releaseBuffer gone) :
    ∃ u, performCall c s = .next u ∧ u.calls = s.calls ∧ (c = .overwriteInput data → u.ib = data) ∧
      (∀ n, n ≤ s.ibId → bufferBytes u n = if n = gone then none else bufferBytes s n) ∧
      u.heldHeader = s.heldHeader ∧ u.heldBuffer = s.heldBuffer ∧ u.p = s.p ∧ u.payloadSource = s.payloadSource := by
  rcases hc with ⟨rfl, rfl⟩ | rfl
  · exact ⟨_, rfl, rfl, fun _ => rfl, fun n hn => bufferBytes_overwriteInput data hi.buffers_ordered hn, rfl, rfl, rfl, rfl⟩
  · obtain ⟨hcalls, hheld, hbuffer, hp, hsource⟩ := releaseBuffer_frame gone s
    exact ⟨_, rfl, hcalls, nofun, fun n hn => bufferBytes_releaseBuffer hi.buffers_ordered hn, hheld, hbuffer, hp, hsource⟩

/-- Settles O48: each use of a view asks whether its buffer stands, and only the two moves make one gone. -/
theorem unusableViewsAreRefused : Obligations.UnusableViewsAreRefused := by
  intro s data rest
  refine ⟨fun h hh hb => ⟨?_, ?_⟩, fun hi c gone hc => ?_, fun hu => ⟨fun i hi => exec_stale hi hu, ?_, ?_⟩,
    fun hn => ⟨?_, ?_, ?_⟩⟩
  · exact withPayloadView_gone (s := { s with calls := rest }) hh hb _
  · exact withPayloadView_gone (s := { s with calls := rest }) hh hb _
  · obtain ⟨u, hu, hcalls, hib, buffers, hheld, hbuffer, hp, hsource⟩ :=
      performCall_gone (s := { s with calls := rest }) hi.frame hc
    obtain ⟨unusable, usable⟩ := payloadUsable_of_gone hi hsource buffers
    exact ⟨u, hu, hcalls, hib, buffers, hheld, hbuffer, hp, unusable, usable⟩
  · exact exec_stale (.inl rfl) hu
  · rw [step_pending, performCall_dispatchEntry]
    exact exec_stale (.inl rfl) hu
  · exact withHeldHeader_none (s := { s with calls := rest }) hn _
  · exact withHeldHeader_none (s := { s with calls := rest }) hn _
  · exact withHeldHeader_none (s := { s with calls := rest }) hn _

end Sys2Proof.Machine

/-! The obligations on memory: what an instruction reads of its buffer, how a prepend grows SB, and which buffers stand. -/

namespace Sys2Proof.Machine

/-! ### Reads of IB -/

/-- The header port consumes the bytes of one row, whatever follows them (R54, R87). -/
theorem decodeHeader_consumes {b rest : Bytes} {i : Instr} (h : decodeHeader b = .ok (i, rest)) :
    ∃ (hdr : Bytes) (fields : Header), b = hdr ++ rest ∧ (∀ tail, decodeHeader (hdr ++ tail) = .ok (i, tail)) ∧
      ∀ u, exec i u = .next (acceptHeader hdr.length fields u) := by
  match b with
  | [] | [_] | [_, _] | [_, _, _] | [_, _, _, _] | [_, _, _, _, _] | [_, _, _, _, _, _] | [_, _, _, _, _, _, _] =>
    cases h
  | b0 :: b1 :: b2 :: b3 :: b4 :: b5 :: b6 :: b7 :: behind =>
    by_cases hv : versionOf b0 = 2
    · cases ht : teidFlagOf b0 with
      | false =>
        cases (decodeHeader_H8 hv ht).symm.trans h
        exact ⟨[b0, b1, b2, b3, b4, b5, b6, b7], _, rfl, fun _ => decodeHeader_H8 hv ht, fun _ => rfl⟩
      | true =>
        match behind with
        | [] | [_] | [_, _] | [_, _, _] => cases (decodeHeader_cut hv ht (by simp)).symm.trans h
        | b8 :: b9 :: b10 :: b11 :: tail =>
          cases (decodeHeader_H12 b8 b9 b10 b11 hv ht).symm.trans h
          exact ⟨[b0, b1, b2, b3, b4, b5, b6, b7, b8, b9, b10, b11], _, rfl,
            fun _ => decodeHeader_H12 b8 b9 b10 b11 hv ht, fun _ => rfl⟩
    · cases (decodeHeader_unsupportedVersion hv).symm.trans h

/-- A DECODE that succeeds fetched a header row. -/
theorem decodeHeader_of_exec_decode {s t : State} (h : exec .decode s = .next t) (herr : t.err = .ok) :
    ∃ i rest, decodeHeader s.ib = .ok (i, rest) := by
  cases hd : decodeHeader s.ib with
  | ok x => exact ⟨x.1, x.2, rfl⟩
  | error r =>
    obtain rfl := Host.Outcome.next.inj ((exec_decode_of_decodeHeader_error hd).symm.trans h)
    cases herr

/-- Settles O16: the row fetched ends where the header does, and the row knows of the rest its length alone. -/
theorem decodeIgnoresTrailingBytes : Obligations.DecodeIgnoresTrailingBytes := by
  intro s t hdr tail tail' h herr hlen
  obtain ⟨i, rest, fetch⟩ := decodeHeader_of_exec_decode h herr
  obtain ⟨row, fields, split, refetch, accept⟩ := decodeHeader_consumes fetch
  have decodes {u : State} {behind : Bytes} (hu : u.ib = row ++ behind) :
      exec .decode u = .next (acceptHeader row.length fields u) :=
    (exec_decode_of_decodeHeader (hu ▸ refetch behind)).trans (accept u)
  obtain rfl := Host.Outcome.next.inj ((decodes split).symm.trans h)
  rw [acceptHeader_of_append fields split] at hlen ⊢
  obtain ⟨rfl, rfl⟩ := List.append_inj split hlen.symm
  rw [decodes rfl, acceptHeader_of_append fields rfl]
  rfl

/-! ### Prepends to SB -/

theorem headerBytes_length (t : Bool) (f : EncodeFields) : (headerBytes t f).length = headerLength t := by
  cases t <;> rfl

/-- An ENCODE that succeeds read every field it needs and returned the header's bytes as its window (R140). -/
theorem exec_encode_returnWindow {s t : State} (h : exec .encode s = .next t) (herr : t.err = .ok) :
    ∃ (teidFlag : Bool) (f : EncodeFields), s.operand.teidFlag = some teidFlag ∧
      readEncodeFields s.operand teidFlag = .ok f ∧
      t = returnWindow (headerBytes teidFlag f) (notePrepend (headerLength teidFlag) s) := by
  change execEncode s = .next t at h
  cases ht : s.operand.teidFlag with
  | none => cases (execEncode_teidFlag_unset ht).symm.trans h
  | some teidFlag =>
    cases hp : s.prependOk with
    | false =>
      obtain rfl := Host.Outcome.next.inj ((execEncode_prepend_fails ht hp).symm.trans h)
      cases herr
    | true =>
      cases hf : readEncodeFields s.operand teidFlag with
      | error g => cases (execEncode_field_unset ht hp hf).symm.trans h
      | ok f =>
        exact ⟨teidFlag, f, rfl, hf, (Host.Outcome.next.inj ((execEncode_writes ht hp hf).symm.trans h)).symm⟩

/-- A successful ENCODE prepends its window (R66). -/
theorem exec_encode_sb {s t : State} (h : exec .encode s = .next t) (herr : t.err = .ok) : t.sb = t.window ++ s.sb := by
  obtain ⟨teidFlag, f, -, -, rfl⟩ := exec_encode_returnWindow h herr
  rfl

/-- Settles O24: `exec_encode_sb` for this prepend and for a later one, and the window's length by T. -/
theorem encodeKeepsEarlierContent : Obligations.EncodeKeepsEarlierContent := by
  intro s t h herr
  have hsb := exec_encode_sb h herr
  refine ⟨hsb, ?_, fun k => ?_, fun hempty => ?_, fun u v hu hex hok => ?_⟩
  · obtain ⟨teidFlag, f, ht, -, rfl⟩ := exec_encode_returnWindow h herr
    have hlen : _ = headerLength teidFlag := headerBytes_length teidFlag f
    cases teidFlag with
    | false => exact .inl ⟨ht, hlen⟩
    | true => exact .inr ⟨ht, hlen⟩
  · rw [readByte, readByte, hsb, List.getElem?_append_right (Nat.le_add_right _ _), Nat.add_sub_cancel_left]
  · rw [hsb, hempty, List.append_nil]
  · rw [exec_encode_sb hex hok, hu, hsb]

/-! ### Accesses -/

/-- Settles O37: every instruction ends by an effect or in a refusal. -/
theorem noAccessLeavesItsBuffer : Obligations.NoAccessLeavesItsBuffer :=
  exec_noFault

/-! ### Another input buffer -/

/-- Handing over another buffer makes no payload operand unusable, and no unusable one usable (R67, R215). -/
theorem payloadUsable_giveInput {s : State} (data : Bytes) (hi : RecordInv s) :
    payloadUsable (giveInput data s) = payloadUsable s := by
  cases hsrc : s.payloadSource with
  | callerBytes => rw [payloadUsable_callerBytes hsrc, payloadUsable_callerBytes (s := giveInput data s) hsrc]
  | viewOf n =>
    rw [payloadUsable_viewOf hsrc, payloadUsable_viewOf (s := giveInput data s) hsrc,
      bufferBytes_giveInput data (hi.payload_provided n hsrc)]

/-- `givePayloadView` forms the end of the standing buffer that the view describes (R30, R164). -/
theorem step_givePayloadView_live {s : State} {h : Header} {buffer : Bytes} (rest : List Call) (hi : RecordInv s)
    (hh : s.heldHeader = some h) (hb : bufferBytes s s.heldBuffer = some buffer) :
    step { s with calls := .givePayloadView :: rest } =
      .next (setPayload (.viewOf s.heldBuffer) (buffer.drop h.payload.start) { s with calls := rest }) := by
  rw [step_pending, performCall_givePayloadView]
  exact withPayloadView_live (s := { s with calls := rest }) hh hb (hi.held_payload hh hb) _

/-- Both ways of handing over an input buffer are `giveInput` (R68, R214). -/
theorem performCall_handsOver {s : State} {c : Call} {data ib : Bytes}
    (hc : (c = .giveInput data ∧ ib = data) ∨ (c = .giveSerializedAsInput ∧ ib = s.sb)) :
    performCall c s = .next (giveInput ib s) := by
  rcases hc with ⟨rfl, rfl⟩ | ⟨rfl, rfl⟩ <;> rfl

/-- Settles O47: the new buffer gets a number of its own, so those before keep theirs, and the invariant still ties the Header held
to its buffer. -/
theorem earlierBuffersKeepTheirViews : Obligations.EarlierBuffersKeepTheirViews := by
  intro s data ib c rest hi hc
  have hi' : RecordInv { s with calls := rest } := hi.frame
  refine ⟨giveInput ib { s with calls := rest }, performCall_handsOver hc, rfl, bufferBytes_ibId _, rfl,
    fun n => bufferBytes_giveInput (s := { s with calls := rest }) ib, payloadUsable_giveInput ib hi', rfl, rfl, rfl,
    fun h b hh hb => ?_⟩
  have stands : bufferBytes (giveInput ib { s with calls := rest }) s.heldBuffer = some b :=
    (bufferBytes_giveInput ib hi'.held_provided).trans hb
  refine ⟨step_givePayloadView_live rest (hi'.giveInput ib) hh stands,
    step_nextLayerType_live rest (hi'.giveInput ib) hh stands, ?_⟩
  exact (payloadUsable_viewOf rfl).trans (congrArg Option.isSome stands)

end Sys2Proof.Machine

/-! The decoder and the encoder undo each other, port by port: commands, header rows, payload rows. -/

namespace Sys2Proof.Machine

/-! ### Commands -/

/-- The instruction of a command code is a command, and that code is its byte (R100). -/
theorem encode_of_decodeCommand {op : BitVec 2} {i : Instr} (h : decodeCommand op = .ok i) :
    encode i = [op.setWidth 8] ∧ i.wellFormed = true ∧ i.port = .command := by
  unfold decodeCommand at h
  split at h
  next hop => cases h; exact ⟨by rw [hop]; rfl, rfl, rfl⟩
  split at h
  next hop => cases h; exact ⟨by rw [hop]; rfl, rfl, rfl⟩
  split at h
  next hop => cases h; exact ⟨by rw [hop]; rfl, rfl, rfl⟩
  cases h

/-- A byte whose upper bits are zero is its low two bits. -/
theorem setWidth_command {b : Byte} (h : b.extractLsb' 2 6 = 0) : (b.extractLsb' 0 2).setWidth 8 = b := by
  revert b; decide

/-- The command port reads the code in the low bits of a byte whose other bits are zero. -/
theorem decodeCommandByte_eq_ok {b tail : Bytes} {i : Instr} (h : decodeCommandByte b = .ok (i, tail)) :
    ∃ b0, b = b0 :: tail ∧ b0.extractLsb' 2 6 = 0 ∧ decodeCommand (b0.extractLsb' 0 2) = .ok i := by
  unfold decodeCommandByte at h
  split at h
  · cases h
  · split at h
    next upper =>
      split at h
      next code => cases h; exact ⟨_, rfl, upper, code⟩
      next => cases h
    next => cases h

/-! ### Header rows -/

/-- Byte 0 of a version-2 header is laid out from its own flags and reserved bits (R86). -/
theorem headerByte0_flags {b0 : Byte} (hv : versionOf b0 = 2) :
    headerByte0 (piggybackOf b0) (teidFlagOf b0) (reservedOf b0) = b0 := by
  revert b0; decide

/-- The header port takes the bytes of the row it gives, and leaves the rest (R86, R89). -/
theorem eq_encode_of_decodeHeader {b tail : Bytes} {i : Instr} (h : decodeHeader b = .ok (i, tail)) :
    b = encode i ++ tail := by
  match b with
  | [] | [_] | [_, _] | [_, _, _] | [_, _, _, _] | [_, _, _, _, _] | [_, _, _, _, _, _] | [_, _, _, _, _, _, _] =>
    cases h
  | b0 :: b1 :: b2 :: b3 :: b4 :: b5 :: b6 :: b7 :: rest =>
    by_cases hv : versionOf b0 = 2
    · have byte0 := headerByte0_flags hv
      cases ht : teidFlagOf b0 with
      | false =>
        cases (decodeHeader_H8 hv ht).symm.trans h
        rw [ht] at byte0
        simp [encode, byte0, halfBytes_append, sequenceBytes_append]
      | true =>
        match rest with
        | [] | [_] | [_, _] | [_, _, _] => cases (decodeHeader_cut hv ht (by simp)).symm.trans h
        | b8 :: b9 :: b10 :: b11 :: rest =>
          cases (decodeHeader_H12 b8 b9 b10 b11 hv ht).symm.trans h
          rw [ht] at byte0
          simp [encode, byte0, halfBytes_append, teidBytes_append, sequenceBytes_append]
    · cases (decodeHeader_unsupportedVersion hv).symm.trans h

/-- Every header row is well-formed: its fields have their widths by type. -/
theorem wellFormed_of_header {i : Instr} (hi : i.port = .header) : i.wellFormed = true := by
  cases i with
  | gtp2cH8 | gtp2cH12 => rfl
  | decode | encode | dispatch | nextIpv4 | nextIpv6 | nextPpp => cases hi

/-! ### Payload rows -/

/-- A payload byte is decoded by its top nibble and carries its low one (R99). -/
theorem decodePayloadByte_append (nibble low : BitVec 4) :
    decodePayloadByte (nibble ++ low) =
      if nibble = 4 then .nextIpv4 low else if nibble = 6 then .nextIpv6 low else .nextPpp nibble low := by
  revert nibble low; decide

/-- The payload row of a byte is well-formed and the byte is its encoding (R99). -/
theorem encode_decodePayloadByte (b : Byte) :
    encode (decodePayloadByte b) = [b] ∧ (decodePayloadByte b).wellFormed = true ∧
      (decodePayloadByte b).port = .payload := by
  obtain ⟨nibble, low, rfl⟩ : ∃ nibble low : BitVec 4, b = nibble ++ low :=
    ⟨b.extractLsb' 4 4, b.extractLsb' 0 4, by revert b; decide⟩
  rw [decodePayloadByte_append]
  by_cases h4 : nibble = 4
  · rw [if_pos h4, h4]
    exact ⟨rfl, rfl, rfl⟩
  · by_cases h6 : nibble = 6
    · rw [if_neg h4, if_pos h6, h6]
      exact ⟨rfl, rfl, rfl⟩
    · rw [if_neg h4, if_neg h6]
      exact ⟨rfl, Bool.and_eq_true_iff.mpr ⟨bne_iff_ne.mpr h4, bne_iff_ne.mpr h6⟩, rfl⟩

/-! ### The obligations on encodings -/

/-- Settles O8: each row's bytes are told apart by its code, its byte 0 or its top nibble. -/
theorem decodeInvertsEncode : Obligations.DecodeInvertsEncode := by
  intro i tail hwf
  have payload (nibble low : BitVec 4) :
      decodeAt .payload ([(nibble ++ low : Byte)] ++ tail) = .ok (decodePayloadByte (nibble ++ low), tail) := rfl
  cases i with
  | decode | encode | dispatch => rfl
  | gtp2cH8 p r mt ml seq z => exact decodeHeader_encode_H8 p r mt ml seq z tail
  | gtp2cH12 p r mt ml tid seq z => exact decodeHeader_encode_H12 p r mt ml tid seq z tail
  | nextIpv4 low => exact (payload 4 low).trans (by rw [decodePayloadByte_append, if_pos rfl])
  | nextIpv6 low => exact (payload 6 low).trans (by rw [decodePayloadByte_append, if_neg (by decide), if_pos rfl])
  | nextPpp nibble low =>
    obtain ⟨h4, h6⟩ : nibble ≠ 4 ∧ nibble ≠ 6 := by simpa [Instr.wellFormed] using hwf
    exact (payload nibble low).trans (by rw [decodePayloadByte_append, if_neg h4, if_neg h6])

/-- Settles O9: no port drops a bit of what it decodes. -/
theorem encodeInvertsDecode : Obligations.EncodeInvertsDecode := by
  intro port b tail i h
  cases port with
  | command =>
    obtain ⟨b0, rfl, upper, code⟩ := decodeCommandByte_eq_ok h
    obtain ⟨bytes, hwf, hport⟩ := encode_of_decodeCommand code
    exact ⟨by rw [bytes, setWidth_command upper]; rfl, hwf, hport⟩
  | header => exact ⟨eq_encode_of_decodeHeader h, wellFormed_of_header (decodeHeader_port h), decodeHeader_port h⟩
  | payload =>
    match b, h with
    | b0 :: _, rfl =>
      obtain ⟨bytes, hwf, hport⟩ := encode_decodePayloadByte b0
      exact ⟨by rw [bytes]; rfl, hwf, hport⟩

/-- Settles O10: the decoder evaluates to each row. -/
theorem sampleWordsDecode : Obligations.SampleWordsDecode :=
  ⟨rfl, rfl, rfl, rfl, rfl⟩

/-- Settles O11: each code is the spec's, and the ranges hold kind by kind. -/
theorem interfaceCodesAreThoseOfTheSpec : Obligations.InterfaceCodesAreThoseOfTheSpec := by
  refine ⟨rfl, rfl, rfl, rfl, rfl, fun st => ?_, rfl, rfl, rfl, fun n => ?_, rfl, rfl, rfl⟩
  · cases st with
    | ok => decide
    | error e => cases e <;> decide
  · cases n <;> decide

end Sys2Proof.Machine

/-! The obligations on ENCODE followed by DECODE: the bytes of a valid Header are those of its format row. -/

namespace Sys2Proof.Machine

/-- The row of the header formats that carries a Header, reserved bits and spare byte zero (R86, R90). -/
def formatRow (h : Header) : Instr :=
  if h.teidFlag
  then .gtp2cH12 h.piggybackingFlag 0 h.messageType h.messageLength h.teid h.sequenceNumber 0
  else .gtp2cH8 h.piggybackingFlag 0 h.messageType h.messageLength h.sequenceNumber 0

theorem formatRow_port (h : Header) : (formatRow h).port = .header := by
  unfold formatRow
  split <;> rfl

/-- The pseudocode's bytes of a version-2 Header are those of the format table (R86, R90, R98). -/
theorem wireBytes_eq_encode {h : Header} (hv : h.version = 2) : wireBytes h = encode (formatRow h) := by
  have byte0 : byte0Of h.version h.piggybackingFlag h.teidFlag = headerByte0 h.piggybackingFlag h.teidFlag 0 := by
    rw [hv, byte0Of_two]
  cases ht : h.teidFlag <;> rw [ht] at byte0 <;>
    simp [wireBytes, headerBytes, encodeFieldsOf, formatRow, encode, ht, byte0]

theorem wireBytes_length (h : Header) : (wireBytes h).length = headerLength h.teidFlag :=
  headerBytes_length h.teidFlag (encodeFieldsOf h)

/-- What a DECODE returns of a Header's bytes with `n` bytes behind them: an absent `teid` is zero, and the views are its own
(R126, R128). -/
def decodedHeader (h : Header) (n : Nat) : Header :=
  { h with teid := if h.teidFlag then h.teid else 0
           contents := ⟨0, headerLength h.teidFlag⟩
           payload := ⟨headerLength h.teidFlag, n⟩ }

/-- A decoded Header carries the same fields on the wire (R35, R151). -/
theorem wireEq_decodedHeader (h : Header) (n : Nat) : wireEq (decodedHeader h n) h = true := by
  cases ht : h.teidFlag <;> simp [wireEq, decodedHeader, ht]

theorem exec_formatRow {s : State} {h : Header} {tail : Bytes} (hv : h.version = 2) (hib : s.ib = wireBytes h ++ tail) :
    exec (formatRow h) s = .next (returnHeader (decodedHeader h tail.length) (headerLength h.teidFlag) s) := by
  have row : exec (formatRow h) s =
      .next (acceptHeader (wireBytes h).length (decodedHeader h tail.length) s) := by
    rw [wireBytes_length]
    unfold formatRow
    cases ht : h.teidFlag <;> simp [exec, execGtp2cH8, execGtp2cH12, acceptHeader, decodedHeader, headerLength, hv, ht]
  rw [row, acceptHeader_of_append _ hib, wireBytes_length]
  rfl

/-- DECODE of a valid Header's bytes returns the Header, whatever follows them (R151). -/
theorem exec_decode_wireBytes {s : State} {h : Header} {tail : Bytes} (hv : h.version = 2)
    (hib : s.ib = wireBytes h ++ tail) :
    exec .decode s = .next (returnHeader (decodedHeader h tail.length) (headerLength h.teidFlag) s) := by
  have fetch : decodeAt (formatRow h).port (encode (formatRow h) ++ tail) = .ok (formatRow h, tail) :=
    decodeInvertsEncode _ tail (wellFormed_of_header (formatRow_port h))
  rw [formatRow_port, ← wireBytes_eq_encode hv, ← hib] at fetch
  rw [exec_decode_of_decodeHeader fetch, exec_formatRow hv hib]

/-- Settles O25: the window is the Header's bytes. -/
theorem encodeWritesTheFormatRow : Obligations.EncodeWritesTheFormatRow := by
  intro s h hop hv hok
  refine ⟨_, exec_encode_operandOfHeader hop hok, rfl, ?_⟩
  rw [returnWindow_sb, wireBytes_eq_encode hv]
  rfl

/-- A run goes on from where its first call leads. -/
theorem runSteps_call {s t : State} {c : Call} {rest : List Call} (k : Nat) (hcalls : s.calls = c :: rest)
    (h : performCall c { s with calls := rest } = .next t) : runSteps (k + 1) s = runSteps k t := by
  rw [runSteps, step_call hcalls, h]

/-- Where ROUNDTRIP stands when its operands are in place: SB empty, the Header handed over, ENCODE next. -/
def roundTripReady (s : State) (h : Header) (rest : List Call) : State :=
  { s with calls := .command (opCode .encode) :: .giveSerializedAsInput :: .command (opCode .decode) :: rest
           sb := [], operand := operandOfHeader h }

/-- A run whose first call encodes a Header goes on with that Header's bytes in front of SB. -/
theorem runSteps_encode {s : State} {h : Header} {rest : List Call} (k : Nat)
    (hcalls : s.calls = .command (opCode .encode) :: rest) (hop : s.operand = operandOfHeader h) (hok : s.prependOk = true) :
    runSteps (k + 1) s =
      runSteps k (returnWindow (wireBytes h) (notePrepend (headerLength h.teidFlag) { s with calls := rest })) :=
  runSteps_call k hcalls (exec_encode_operandOfHeader hop hok)

/-- The second half of ROUNDTRIP decodes the serialized bytes (R68, R104). -/
theorem runSteps_decode_serialized {s : State} {h : Header} {rest : List Call} (hv : h.version = 2)
    (hcalls : s.calls = .giveSerializedAsInput :: .command (opCode .decode) :: rest) (hsb : s.sb = wireBytes h) :
    runSteps 2 s = .next (returnHeader (decodedHeader h 0) (headerLength h.teidFlag)
      (giveInput s.sb { s with calls := rest })) := by
  have decoded : performCall (.command (opCode .decode)) (giveInput s.sb { s with calls := rest }) = _ :=
    exec_decode_wireBytes (tail := []) hv (by rw [giveInput_ib, hsb, List.append_nil])
  exact (runSteps_call 1 hcalls rfl).trans (runSteps_call 0 rfl decoded)

/-- Settles O29: ENCODE into an empty buffer leaves the Header's bytes alone, and DECODE of them returns it. -/
theorem roundTripRunReturnsTheHeader : Obligations.RoundTripRunReturnsTheHeader := by
  intro s h rest hvalid hok
  have hv : h.version = 2 := by simpa [validHeader] using hvalid
  have ready : runSteps 5 { s with calls := roundTripCalls (operandOfHeader h) ++ rest } =
      runSteps 3 (roundTripReady s h rest) :=
    (runSteps_call 4 rfl rfl).trans (runSteps_call 3 rfl rfl)
  have encoded := runSteps_encode (s := roundTripReady s h rest) 2 rfl rfl hok
  have decoded := encoded.trans (runSteps_decode_serialized hv rfl (List.append_nil _))
  exact ⟨_, ready.trans decoded, rfl, wireEq_decodedHeader h 0, rfl, rfl, rfl⟩

end Sys2Proof.Machine

/-! The obligations on what a step runs: the ports, the table's words, the entry points and the framework's chain. -/

namespace Sys2Proof.Machine

/-! ### The ports -/

theorem runCommand_ok {op : BitVec 2} {i : Instr} (h : decodeCommand op = .ok i) (s : State) :
    runCommand op s = exec i s := by
  simp only [runCommand, h]

/-- Settles O4: the three codes that `decodeCommand` knows, and the one it does not. -/
theorem commandCodesSelectOperations : Obligations.CommandCodesSelectOperations :=
  fun _ _ => ⟨rfl, rfl, rfl, rfl⟩

/-- DISPATCH runs the payload row at the front of its operand, and is refused where that row is (R99, R160). -/
theorem exec_dispatch_of_decodePayload {s : State} {i : Instr} {tail : Bytes} (h : decodePayload s.p = .ok (i, tail)) :
    exec .dispatch s = exec i s := by
  obtain ⟨b, hp, rfl⟩ : ∃ b, s.p = b :: tail ∧ decodePayloadByte b = i := by
    match hp : s.p with
    | [] => rw [hp] at h; cases h
    | b :: rest => rw [hp] at h; cases h; exact ⟨b, rfl, rfl⟩
  rw [exec_decodePayloadByte]
  exact (execDispatch_eq_classifyAs s).trans (by rw [hp, List.headD_cons])

/-- Settles O5, port by port. -/
theorem stepRunsTheDecodedInstruction : Obligations.StepRunsTheDecodedInstruction := by
  intro s rest i
  refine ⟨fun op h => runCommand_ok h _, fun tail h => ?_, fun tail h => ?_⟩
  · rw [step_pending, performCall_decodeEntry]
    exact exec_decode_of_decodeHeader (s := { s with calls := rest }) h
  · rw [step_pending, performCall_dispatchEntry]
    exact exec_dispatch_of_decodePayload (s := { s with calls := rest }) h

/-- Settles O35: the entry point fetches the row that DECODE runs. -/
theorem decodeEntryAgreesWithDecode : Obligations.DecodeEntryAgreesWithDecode :=
  fun _ _ => performCall_decodeEntry _

/-- Settles O36: the entry point fetches the row that DISPATCH runs. -/
theorem dispatchEntryAgreesWithDispatch : Obligations.DispatchEntryAgreesWithDispatch :=
  fun _ _ => performCall_dispatchEntry _

/-! ### Words of the opcode table -/

theorem tableWordBytes_eq_cons (nbits w : Nat) :
    ∃ rest, tableWordBytes nbits w = BitVec.ofNat 8 (tableWord nbits w) :: rest := by
  obtain ⟨n, hn⟩ : ∃ n, max longestInstr ((nbits + 7) / 8) = n + 1 :=
    Nat.exists_eq_add_one.mpr (by simp [longestInstr])
  exact ⟨_, by rw [tableWordBytes, hn, tableBytes]⟩

/-- The command code of a word is that of its first byte. -/
theorem tableCommand_eq (nbits w : Nat) :
    tableCommand nbits w = (BitVec.ofNat 8 (tableWord nbits w)).extractLsb' 0 2 := by
  apply BitVec.eq_of_toNat_eq
  simp only [tableCommand, BitVec.extractLsb'_toNat, BitVec.toNat_ofNat, Nat.shiftRight_zero]
  omega

/-- A table word decodes at its port. -/
theorem decodeAt_of_decodeTableWord {nbits w : Nat} {i : Instr} (h : decodeTableWord nbits w = some i) :
    ∃ tail, decodeAt (tablePort nbits w) (tableWordBytes nbits w) = .ok (i, tail) := by
  unfold decodeTableWord at h
  split at h
  next fetch => cases h; exact ⟨_, fetch⟩
  next => cases h

/-- Settles O6: the word stands at its port, where O5 says what the call runs. -/
theorem fetchWordRunsTheDecodedRow : Obligations.FetchWordRunsTheDecodedRow := by
  intro s nbits w i h
  obtain ⟨tail, fetch⟩ := decodeAt_of_decodeTableWord h
  unfold State.withFetchWord
  cases hport : tablePort nbits w <;> rw [hport] at fetch
  case command =>
    obtain ⟨rest, hbytes⟩ := tableWordBytes_eq_cons nbits w
    obtain ⟨b0, hb0, -, code⟩ := decodeCommandByte_eq_ok fetch
    obtain ⟨rfl, -⟩ := List.cons.inj (hbytes.symm.trans hb0)
    have run := (stepRunsTheDecodedInstruction { s with operand := HeaderOperand.zeros } s.calls i).1
    exact ⟨_, run _ (tableCommand_eq nbits w ▸ code), rfl, rfl, rfl, rfl, rfl, rfl, rfl⟩
  case header =>
    obtain ⟨-, run, -⟩ := stepRunsTheDecodedInstruction (giveInput (tableWordBytes nbits w) s) s.calls i
    exact ⟨_, run tail fetch, rfl, rfl, rfl, rfl, rfl, rfl, rfl⟩
  case payload =>
    obtain ⟨-, -, run⟩ :=
      stepRunsTheDecodedInstruction (setPayload .callerBytes (tableWordBytes nbits w) s) s.calls i
    exact ⟨_, run tail fetch, rfl, rfl, rfl, rfl, rfl, rfl, rfl⟩

/-! ### The framework's chain -/

theorem runDecodeChain_of_exec {s t : State} (h : exec .decode s = .next t) :
    runDecodeChain s = .next (if t.err = .ok then { t with calls := .nextLayerType :: t.calls } else t) := by
  simp only [runDecodeChain, h]

/-- A DECODE without an error leaves a valid Header (R40). -/
theorem hdrValid_of_exec_decode {s t : State} (h : exec .decode s = .next t) (herr : t.err = .ok) : t.hdrValid = true := by
  obtain ⟨f, hf, rfl, -⟩ := exec_effect h
  change Effect s .decode f at hf
  cases hf with
  | decodeFails => cases herr
  | decodes => rfl

/-- DISPATCH leaves the Header held with the caller, whatever its outcome (R165 step 5). -/
theorem exec_dispatch_heldHeader {s t : State} (h : exec .dispatch s = .next t) : t.heldHeader = s.heldHeader := by
  obtain ⟨f, hf, rfl, -⟩ := exec_effect h
  obtain ⟨-, -, held, -⟩ := hf.header_eq (by simp [operationOf]) s
  exact held

/-- Settles O46: the chain's second call dispatches the view of the Header that its first one returned. -/
theorem decodeChainDispatchesThePayload : Obligations.DecodeChainDispatchesThePayload := by
  intro s t rest h
  rw [step_pending, performCall_decodeChain, runDecodeChain_of_exec h]
  refine ⟨fun herr => by rw [if_neg herr], fun herr => ?_⟩
  rw [if_pos herr]
  obtain ⟨hd, shape, split, rfl⟩ := exec_decode_returnHeader h (hdrValid_of_exec_decode h herr)
  have dispatched : step { returnHeader hd hd.contents.len { s with calls := rest } with calls := .nextLayerType :: rest } =
      exec .dispatch { returnHeader hd hd.contents.len { s with calls := rest } with
        p := s.ib.drop hd.contents.len, payloadSource := .viewOf s.ibId } := by
    rw [step_pending, performCall_nextLayerType]
    refine (withPayloadView_live rfl (bufferBytes_ibId s) (viewBytes_payload shape split) _).trans ?_
    rw [shape.payload_start, ← shape.contents_len]
    rfl
  exact ⟨_, rfl, dispatched, fun v hv => exec_dispatch_heldHeader (dispatched.symm.trans hv)⟩

end Sys2Proof.Machine

/-! The obligations on the classes of DECODE and on the rows of the data formats. -/

namespace Sys2Proof.Machine

/-! ### The header rows -/

theorem acceptHeader_short {n : Nat} {s : State} (fields : Header) (h : s.ib.length < n) :
    acceptHeader n fields s = raiseError .decode .truncatedHeader s :=
  if_pos h

theorem acceptHeader_long {n : Nat} {s : State} (fields : Header) (h : n ≤ s.ib.length) :
    acceptHeader n fields s =
      returnHeader { fields with contents := ⟨0, n⟩, payload := ⟨n, s.ib.length - n⟩ } n s :=
  if_neg (Nat.not_lt.mpr h)

/-- Settles O33: each header row is `acceptHeader` at its format's length. -/
theorem headerRowsGiveTheirFields : Obligations.HeaderRowsGiveTheirFields := by
  intro s p r mt ml tid seq z
  refine ⟨fun h8 => ?_, fun h12 => ?_, fun h8 => ?_, fun h12 => ?_⟩
  · exact congrArg _ (acceptHeader_long _ h8)
  · exact congrArg _ (acceptHeader_long _ h12)
  · exact congrArg _ (acceptHeader_short _ h8)
  · exact congrArg _ (acceptHeader_short _ h12)

/-! ### The classes of R97 -/

/-- The mask of R87 for H12 tests the version and T. -/
theorem format_mask_H12 (b0 : Byte) : b0 &&& 0xE8 = 0x48 ↔ versionOf b0 = 2 ∧ teidFlagOf b0 = true := by
  revert b0; decide

/-- Every byte sequence falls in one of the five classes of R97, and the class says how DECODE ends. -/
theorem exec_decode_classes (s : State) :
    (s.ib.length < 8 ∧ exec .decode s = .next (raiseError .decode .truncatedHeader s)) ∨
    (8 ≤ s.ib.length ∧ versionOf (s.ib.headD 0) ≠ 2#3 ∧
      exec .decode s = .next (raiseError .decode .unsupportedVersion s)) ∨
    (8 ≤ s.ib.length ∧ s.ib.length < 12 ∧ versionOf (s.ib.headD 0) = 2 ∧ teidFlagOf (s.ib.headD 0) = true ∧
      exec .decode s = .next (raiseError .decode .truncatedHeader s)) ∨
    (8 ≤ s.ib.length ∧ versionOf (s.ib.headD 0) = 2 ∧ teidFlagOf (s.ib.headD 0) = false ∧
      ∃ h, exec .decode s = .next (returnHeader h 8 s)) ∨
    (12 ≤ s.ib.length ∧ versionOf (s.ib.headD 0) = 2 ∧ teidFlagOf (s.ib.headD 0) = true ∧
      ∃ h, exec .decode s = .next (returnHeader h 12 s)) := by
  match hb : s.ib with
  | [] | [_] | [_, _] | [_, _, _] | [_, _, _, _] | [_, _, _, _, _] | [_, _, _, _, _, _] | [_, _, _, _, _, _, _] =>
    exact .inl ⟨by simp, execDecode_short (by simp [hb])⟩
  | b0 :: b1 :: b2 :: b3 :: b4 :: b5 :: b6 :: b7 :: rest =>
    right
    by_cases hv : versionOf b0 = 2
    · right
      cases ht : teidFlagOf b0 with
      | false =>
        have run := exec_decode_of_decodeHeader (s := s) (hb ▸ decodeHeader_H8 hv ht)
        exact .inr (.inl ⟨by simp, hv, ht, _, run.trans (congrArg _ (acceptHeader_long _ (by simp [hb])))⟩)
      | true =>
        match rest with
        | [] | [_] | [_, _] | [_, _, _] =>
          exact .inl ⟨by simp, by simp, hv, ht,
            exec_decode_of_decodeHeader_error (hb ▸ decodeHeader_cut hv ht (by simp))⟩
        | b8 :: b9 :: b10 :: b11 :: tail =>
          have run := exec_decode_of_decodeHeader (s := s) (hb ▸ decodeHeader_H12 b8 b9 b10 b11 hv ht)
          exact .inr (.inr ⟨by simp, hv, ht, _, run.trans (congrArg _ (acceptHeader_long _ (by simp [hb])))⟩)
    · exact .inl ⟨by simp, hv, exec_decode_of_decodeHeader_error (hb ▸ decodeHeader_unsupportedVersion hv)⟩

/-- Settles O14: the masks in terms of the version and T, class by class. -/
theorem decodeClassesFixTheOutcome : Obligations.DecodeClassesFixTheOutcome := by
  intro s
  simp only [ne_eq, version_mask, format_mask, format_mask_H12]
  have classes := exec_decode_classes s
  generalize s.ib.headD 0 = b0 at classes ⊢
  rcases classes with ⟨short, run⟩ | ⟨long, hv, run⟩ | ⟨long, cut, hv, ht, run⟩ | ⟨long, hv, ht, h, run⟩ |
    ⟨long, hv, ht, h, run⟩
  · have : ¬ 8 ≤ s.ib.length := by omega
    have : ¬ 12 ≤ s.ib.length := by omega
    exact ⟨by simp [*], _, run, by simp [*]⟩
  · have : ¬ s.ib.length < 8 := by omega
    exact ⟨by simp [*], _, run, by simp [*]⟩
  · have : ¬ s.ib.length < 8 := by omega
    have : ¬ 12 ≤ s.ib.length := by omega
    have : s.ib.length ≤ 11 := by omega
    exact ⟨by simp [*], _, run, by simp [*]⟩
  · have : ¬ s.ib.length < 8 := by omega
    exact ⟨by simp [*], _, run, by simp [*]⟩
  · have : ¬ s.ib.length < 8 := by omega
    have : 8 ≤ s.ib.length := by omega
    have : ¬ s.ib.length ≤ 11 := by omega
    exact ⟨by simp [*], _, run, by simp [*]⟩

/-- Settles O18: both byte strings hold an H12 header, whose sequence number stands in bytes 8 to 10 (R85). -/
theorem correctedLayoutOfTheExample : Obligations.CorrectedLayoutOfTheExample := by
  intro s
  have decoded (b8 b9 b10 b11 : Byte) :
      exec .decode { s with ib := [0x48, 0x20, 0x01, 0x07, 0, 0, 0, 0, b8, b9, b10, b11] } = .next (acceptHeader 12 _ _) :=
    exec_decode_of_decodeHeader (s := { s with ib := [0x48, 0x20, 0x01, 0x07, 0, 0, 0, 0, b8, b9, b10, b11] })
      (decodeHeader_H12 b8 b9 b10 b11 rfl rfl)
  exact ⟨⟨_, decoded _ _ _ _, rfl, rfl, rfl, rfl⟩, ⟨_, decoded _ _ _ _, rfl⟩⟩

/-! ### The payload rows -/

theorem classifyAs_of_nonempty {s : State} (n : NextProtocol) (hu : payloadUsable s = true) (hp : s.p ≠ []) :
    classifyAs n s = .next (returnNext n s) := by
  rw [classifyAs, withPayload_usable hu, if_neg hp]

theorem classifyAs_of_empty {s : State} (n : NextProtocol) (hu : payloadUsable s = true) (hp : s.p = []) :
    classifyAs n s = .next (raiseError .dispatch .emptyPayload s) := by
  rw [classifyAs, withPayload_usable hu, if_pos hp]

/-- Settles O34: each payload row is `classifyAs` with its own protocol. -/
theorem payloadRowsGiveTheirProtocol : Obligations.PayloadRowsGiveTheirProtocol := by
  intro s nib low
  refine ⟨fun hu hp => ⟨?_, ?_, ?_⟩, fun i hi => ?_⟩
  · exact classifyAs_of_nonempty .ipv4 hu hp
  · exact classifyAs_of_nonempty .ipv6 hu hp
  · exact classifyAs_of_nonempty .ppp hu hp
  · have payload : i = .dispatch ∨ i.port = .payload := by
      rcases hi with rfl | rfl | rfl <;> exact .inr rfl
    obtain ⟨n, row⟩ := exec_eq_classifyAs payload s
    exact ⟨fun hu hp => row.trans (classifyAs_of_empty n hu hp), exec_stale payload⟩

/-- DISPATCH of a usable payload gives the protocol of its first byte's top nibble (R160). -/
theorem exec_dispatch_cons {s : State} {b : Byte} {tail : Bytes} (hu : payloadUsable s = true) (hp : s.p = b :: tail) :
    exec .dispatch s = .next (returnNext (protocolOfNibble (b.extractLsb' 4 4)) s) := by
  refine (execDispatch_eq_classifyAs s).trans ?_
  rw [classifyAs_of_nonempty _ hu (by simp [hp]), hp, List.headD_cons]

/-- Settles O32: 16 bytes have each top nibble, and 14 nibbles fall back to PPP. -/
theorem dispatchCountsOverAllFirstBytes : Obligations.DispatchCountsOverAllFirstBytes := by
  intro s outcome
  have outcome_eq : outcome = fun k => some (protocolOfNibble ((BitVec.ofNat 8 k).extractLsb' 4 4)) := by
    funext k
    have run := exec_dispatch_cons (s := { s with p := [BitVec.ofNat 8 k], payloadSource := .callerBytes }) rfl rfl
    simp only [outcome, run, returnNext_next]
  rw [outcome_eq]
  exact ⟨rfl, rfl, rfl⟩

end Sys2Proof.Machine

/-! The obligations on the errors and the fields of DECODE, from the header row that it fetches. -/

namespace Sys2Proof.Machine

/-- A buffer of at least 8 bytes, the shortest header, by its byte 0. -/
theorem eq_cons_of_readByte {b : Bytes} {b0 : Byte} (first : readByte b 0 = some b0) (long : 8 ≤ b.length) :
    ∃ b1 b2 b3 b4 b5 b6 b7 rest, b = b0 :: b1 :: b2 :: b3 :: b4 :: b5 :: b6 :: b7 :: rest := by
  match b with
  | [] | [_] | [_, _] | [_, _, _] | [_, _, _, _] | [_, _, _, _, _] | [_, _, _, _, _, _] | [_, _, _, _, _, _, _] =>
    simp at long
  | x :: b1 :: b2 :: b3 :: b4 :: b5 :: b6 :: b7 :: rest =>
    obtain rfl : x = b0 := Option.some.inj first
    exact ⟨b1, b2, b3, b4, b5, b6, b7, rest, rfl⟩

/-- Settles O12: the header port rejects the bytes with the error of the first test that fails, and fetches an H8 row when T is
clear. -/
theorem decodeRaisesErrorsInOrder : Obligations.DecodeRaisesErrorsInOrder := by
  intro s
  refine ⟨execDecode_short, fun b0 first long hv => ?_, fun b0 first long cut hv ht => ?_,
    fun b0 first long hv ht => ?_⟩ <;> obtain ⟨b1, b2, b3, b4, b5, b6, b7, rest, hb⟩ := eq_cons_of_readByte first long
  · exact exec_decode_of_decodeHeader_error (hb ▸ decodeHeader_unsupportedVersion hv)
  · have short_rest : rest.length < 4 := by simpa +arith [hb] using cut
    exact exec_decode_of_decodeHeader_error (hb ▸ decodeHeader_cut hv ht short_rest)
  · have run := exec_decode_of_decodeHeader (s := s) (hb ▸ decodeHeader_H8 hv ht)
    exact ⟨_, run.trans (congrArg Host.Outcome.next (acceptHeader_long _ long)), rfl⟩

/-- Settles O13: the row fetched holds the fields, and what follows its bytes is the payload. -/
theorem decodeExtractsEveryField : Obligations.DecodeExtractsEveryField := by
  constructor
  · intro s b0 b1 b2 b3 b4 b5 b6 b7 tail hb hv ht
    have run := exec_decode_of_decodeHeader (s := s) (hb ▸ decodeHeader_H8 hv ht)
    exact run.trans (congrArg _ (acceptHeader_of_append (hdr := [b0, b1, b2, b3, b4, b5, b6, b7]) _ hb))
  · intro s b0 b1 b2 b3 b4 b5 b6 b7 b8 b9 b10 b11 tail hb hv ht
    have run := exec_decode_of_decodeHeader (s := s) (hb ▸ decodeHeader_H12 b8 b9 b10 b11 hv ht)
    exact run.trans
      (congrArg _ (acceptHeader_of_append (hdr := [b0, b1, b2, b3, b4, b5, b6, b7, b8, b9, b10, b11]) _ hb))

end Sys2Proof.Machine

/-! The obligations on ENCODE's outcome: its bytes, its one error, what they depend on, and DECODE on either side of it. -/

namespace Sys2Proof.Machine

/-! ### DECODE after ENCODE -/

/-- Settles O27: the window is the Header's bytes, and DECODE of them returns the Header whatever follows. -/
theorem decodeAfterEncodeReturnsTheHeader : Obligations.DecodeAfterEncodeReturnsTheHeader := by
  intro s h hvalid hop hok
  have hv : h.version = 2 := by simpa [validHeader] using hvalid
  refine ⟨_, exec_encode_operandOfHeader hop hok, rfl, fun u hib => ?_⟩
  have decoded := exec_decode_wireBytes (s := u) (tail := s.sb) hv hib
  refine ⟨_, decoded, rfl, rfl, wireEq_decodedHeader h s.sb.length, fun ht => ?_, ?_, ?_⟩
  · simp [decodedHeader, ht]
  · exact (wireBytes_length h).symm
  · rw [returnWindow_window, wireBytes_length]
    rfl

/-! ### The bytes of the window and the one error -/

/-- The window of a Header without `teid`, byte by byte (R143 to R146). -/
theorem headerBytes_teid_clear (f : EncodeFields) :
    headerBytes false f =
      [(f.version.setWidth 8 <<< 5) ||| ((BitVec.ofBool f.piggybackingFlag).setWidth 8 <<< 4), f.messageType,
       f.messageLength.extractLsb' 8 8, f.messageLength.extractLsb' 0 8, f.sequenceNumber.extractLsb' 16 8,
       f.sequenceNumber.extractLsb' 8 8, f.sequenceNumber.extractLsb' 0 8, 0] := by
  have byte0 : ∀ v p, byte0Of v p false = (v.setWidth 8 <<< 5) ||| ((BitVec.ofBool p).setWidth 8 <<< 4) := by decide
  rw [headerBytes, byte0]
  rfl

/-- The window of a Header with `teid`, byte by byte (R143 to R146). -/
theorem headerBytes_teid_set (f : EncodeFields) :
    headerBytes true f =
      [(f.version.setWidth 8 <<< 5) ||| ((BitVec.ofBool f.piggybackingFlag).setWidth 8 <<< 4) ||| 0x08, f.messageType,
       f.messageLength.extractLsb' 8 8, f.messageLength.extractLsb' 0 8, f.teid.extractLsb' 24 8, f.teid.extractLsb' 16 8,
       f.teid.extractLsb' 8 8, f.teid.extractLsb' 0 8, f.sequenceNumber.extractLsb' 16 8,
       f.sequenceNumber.extractLsb' 8 8, f.sequenceNumber.extractLsb' 0 8, 0] := by
  have byte0 : ∀ v p, byte0Of v p true = (v.setWidth 8 <<< 5) ||| ((BitVec.ofBool p).setWidth 8 <<< 4) ||| 0x08 := by
    decide
  rw [headerBytes, byte0]
  rfl

/-- Settles O19: the fields are read as they are set, and the window is `headerBytes` of them. -/
theorem encodePrependsTheHeaderBytes : Obligations.EncodePrependsTheHeaderBytes := by
  intro s v p mt ml seq hv hp hmt hml hseq hok
  refine ⟨fun ht => ?_, fun tid ht htid => ?_⟩
  · have fields : readEncodeFields s.operand false = .ok ⟨v, p, mt, ml, 0, seq⟩ :=
      readEncodeFields_eq_ok.mpr ⟨hv, hp, hmt, hml, rfl, hseq⟩
    have run := execEncode_writes ht hok fields
    rw [headerBytes_teid_clear] at run
    exact run
  · have fields : readEncodeFields s.operand true = .ok ⟨v, p, mt, ml, tid, seq⟩ :=
      readEncodeFields_eq_ok.mpr ⟨hv, hp, hmt, hml, htid, hseq⟩
    have run := execEncode_writes ht hok fields
    rw [headerBytes_teid_set] at run
    exact run

/-- Of all effects only ENCODE's failure reports `BufferAllocationFailure` (R180, R184). -/
theorem Effect.prepend_denied {s u : State} {op : Op} {f : State → State} (hf : Effect s op f)
    (herr : (f u).err = .error .bufferAllocationFailure) : op = .encode ∧ s.prependOk = false := by
  cases hf with
  | encodeFails _ denied => exact ⟨rfl, denied⟩
  | decodeFails status =>
    cases herr
    simp [statusesOf] at status
  | decodes | encodes | dispatchFails | dispatches => cases herr

/-- Settles O20: the failing prepend ends ENCODE before its other reads, and no other effect reports the error. -/
theorem allocationFailureExactlyWhenPrependFails : Obligations.AllocationFailureExactlyWhenPrependFails := by
  refine ⟨fun s f ht hdenied => ?_, fun i s t h herr => ?_⟩
  · have length_eq : (if f then 12 else 8) = headerLength f := by cases f <;> rfl
    rw [length_eq]
    exact execEncode_prepend_fails ht hdenied
  · obtain ⟨f, hf, rfl, -⟩ := exec_effect h
    obtain ⟨hop, denied⟩ := hf.prepend_denied herr
    exact ⟨operationOf_eq_encode.mp hop, denied⟩

/-! ### What the outcome depends on -/

/-- An ENCODE that ends after its prepend succeeded reports no error (R184). -/
theorem err_ok_of_exec_encode {s t : State} (h : exec .encode s = .next t) (hok : s.prependOk = true) : t.err = .ok := by
  obtain ⟨f, hf, rfl, -⟩ := exec_effect h
  change Effect s .encode f at hf
  cases hf with
  | encodeFails _ denied => cases hok.symm.trans denied
  | encodes => rfl

/-- With T clear the reads take nothing of `teid` (R148). -/
theorem readEncodeFields_absent_teid (h : HeaderOperand) (x : Option (BitVec 32)) :
    readEncodeFields { h with teid := x } false = readEncodeFields h false := rfl

/-- An ENCODE that ends with T clear ends the same way whatever stands in `teid` (R148). -/
theorem exec_encode_absent_teid {s t : State} (ht : s.operand.teidFlag = some false) (h : exec .encode s = .next t)
    (x : Option (BitVec 32)) :
    exec .encode { s with operand := { s.operand with teid := x } } =
      .next { t with operand := { s.operand with teid := x } } := by
  by_cases hok : s.prependOk = true
  · obtain ⟨flag, f, hflag, hf, rfl⟩ := exec_encode_returnWindow h (err_ok_of_exec_encode h hok)
    obtain rfl : false = flag := Option.some.inj (ht.symm.trans hflag)
    exact execEncode_writes (s := { s with operand := { s.operand with teid := x } }) ht hok
      ((readEncodeFields_absent_teid _ x).trans hf)
  · have denied := Bool.eq_false_of_not_eq_true hok
    obtain rfl := Host.Outcome.next.inj ((execEncode_prepend_fails ht denied).symm.trans h)
    exact execEncode_prepend_fails (s := { s with operand := { s.operand with teid := x } }) ht denied

/-- Settles O22: `exec_encode_absent_teid` from the one operand to the other; `=w` does not compare an absent `teid`. -/
theorem encodeIgnoresAbsentTeid : Obligations.EncodeIgnoresAbsentTeid :=
  ⟨fun s _ x y ht h => exec_encode_absent_teid (s := { s with operand := { s.operand with teid := x } }) ht h y,
    fun h x ht => by simp [wireEq, ht]⟩

/-- Operands that agree on the fields ENCODE reads give it the same values; the views do not count (R149, R150). -/
theorem readEncodeFields_of_same_fields {o o' : HeaderOperand} {teidFlag : Bool} {f : EncodeFields}
    (hv : o'.version = o.version) (hp : o'.piggybackingFlag = o.piggybackingFlag) (hmt : o'.messageType = o.messageType)
    (hml : o'.messageLength = o.messageLength) (hseq : o'.sequenceNumber = o.sequenceNumber)
    (htid : teidFlag = true → o'.teid = o.teid) (h : readEncodeFields o teidFlag = .ok f) :
    readEncodeFields o' teidFlag = .ok f := by
  rw [readEncodeFields_eq_ok] at h ⊢
  rw [hv, hp, hmt, hml, hseq]
  cases teidFlag with
  | false => exact h
  | true => rwa [htid rfl]

/-- Settles O23: both states read the same fields, and the window is `headerBytes` of them; the second ENCODE reads the
operand that the first one left alone. -/
theorem encodeIsDeterministic : Obligations.EncodeIsDeterministic := by
  intro s s' t hv hp ht hmt hml hseq htid hok h herr
  obtain ⟨teidFlag, f, hflag, hf, rfl⟩ := exec_encode_returnWindow h herr
  have hf' : readEncodeFields s'.operand teidFlag = .ok f :=
    readEncodeFields_of_same_fields hv hp hmt hml hseq (fun hT => htid (hT ▸ hflag)) hf
  refine ⟨⟨_, execEncode_writes (ht.trans hflag) hok hf', rfl, rfl, rfl, rfl⟩, ?_⟩
  have again := execEncode_writes
    (s := { returnWindow (headerBytes teidFlag f) (notePrepend (headerLength teidFlag) s) with prependOk := true }) hflag rfl hf
  exact ⟨_, again, rfl⟩

/-! ### ENCODE after DECODE -/

theorem headerByte0_mask (p t : Bool) (r : BitVec 3) : headerByte0 p t r &&& 0xF8 = headerByte0 p t 0 := by
  revert p t r; decide

theorem mask_of_reservedOf_zero (b0 : Byte) (h : reservedOf b0 = 0) : b0 &&& 0xF8 = b0 := by
  revert b0; decide

/-- Forcing the reserved bits and the spare byte of canonical bytes to zero changes nothing (R98, R152). -/
theorem canonicalise_of_canonicalBytes {b : Bytes} (hb : canonicalBytes b = true) : canonicalise b = b := by
  match b with
  | [] => rfl
  | [b0] => cases ht : teidFlagOf b0 <;> simp [canonicalBytes, headerLength, ht] at hb
  | b0 :: b1 :: rest =>
    obtain ⟨⟨⟨-, hr⟩, -⟩, hspare⟩ : ((versionOf b0 = 2 ∧ reservedOf b0 = 0) ∧
        (b0 :: b1 :: rest).length = headerLength (teidFlagOf b0)) ∧ (b0 :: b1 :: rest).getLast? = some 0 := by
      simpa only [canonicalBytes, Bool.and_eq_true, beq_iff_eq] using hb
    rw [List.getLast?_cons_cons] at hspare
    rw [canonicalise, mask_of_reservedOf_zero b0 hr, List.dropLast_append_getLast? 0 hspare]

/-- Canonicalising a header row's bytes zeroes its reserved bits and its spare byte: what remains is the row of its fields. -/
theorem canonicalise_encode_H8 (p : Bool) (r : BitVec 3) (mt : Byte) (ml : BitVec 16) (seq : BitVec 24) (z : Byte) :
    canonicalise (encode (.gtp2cH8 p r mt ml seq z)) = encode (.gtp2cH8 p 0 mt ml seq 0) := by
  rw [encode, canonicalise, headerByte0_mask]
  rfl

theorem canonicalise_encode_H12 (p : Bool) (r : BitVec 3) (mt : Byte) (ml : BitVec 16) (tid : BitVec 32) (seq : BitVec 24)
    (z : Byte) : canonicalise (encode (.gtp2cH12 p r mt ml tid seq z)) = encode (.gtp2cH12 p 0 mt ml tid seq 0) := by
  rw [encode, canonicalise, headerByte0_mask]
  rfl

/-- A Header that a header row returns has that row's bytes, canonicalised. -/
theorem wireBytes_of_exec_headerRow {i : Instr} {s t : State} {tail : Bytes} (hi : i.port = .header)
    (hib : s.ib = encode i ++ tail) (h : exec i s = .next t) :
    t.consumedLength = (encode i).length ∧ wireBytes t.header = canonicalise (encode i) := by
  cases i with
  | gtp2cH8 p r mt ml seq z =>
    obtain rfl := Host.Outcome.next.inj ((congrArg Host.Outcome.next (acceptHeader_of_append _ hib)).symm.trans h)
    exact ⟨rfl, (wireBytes_eq_encode rfl).trans (canonicalise_encode_H8 p r mt ml seq z).symm⟩
  | gtp2cH12 p r mt ml tid seq z =>
    obtain rfl := Host.Outcome.next.inj ((congrArg Host.Outcome.next (acceptHeader_of_append _ hib)).symm.trans h)
    exact ⟨rfl, (wireBytes_eq_encode rfl).trans (canonicalise_encode_H12 p r mt ml tid seq z).symm⟩
  | decode | encode | dispatch | nextIpv4 | nextIpv6 | nextPpp => cases hi

/-- A decoded Header has the bytes consumed, canonicalised (R152). -/
theorem wireBytes_of_exec_decode {s t : State} (h : exec .decode s = .next t) (herr : t.err = .ok) :
    wireBytes t.header = canonicalise (s.ib.take t.consumedLength) := by
  obtain ⟨i, tail, fetch⟩ := decodeHeader_of_exec_decode h herr
  have hib := eq_encode_of_decodeHeader fetch
  rw [exec_decode_of_decodeHeader fetch] at h
  obtain ⟨consumed, bytes⟩ := wireBytes_of_exec_headerRow (decodeHeader_port fetch) hib h
  rw [consumed, hib, List.take_left, bytes]

/-- Settles O28: a decoded Header is valid, so its bytes are canonical, and canonical bytes are their own canonical form. -/
theorem encodeAfterDecodeCanonicalises : Obligations.EncodeAfterDecodeCanonicalises := by
  intro s t h hvalid u hop hok
  have herr : t.err = .ok := by
    obtain ⟨hd, -, -, rfl⟩ := exec_decode_returnHeader h hvalid
    rfl
  have bytes := wireBytes_of_exec_decode h herr
  refine ⟨_, exec_encode_operandOfHeader hop hok, rfl, bytes, fun same => ?_, fun canonical => ?_⟩
  · obtain ⟨-, valid, -⟩ := decodedViewsSplitTheInput s t h hvalid
    exact same ▸ canonicalBytes_wireBytes valid
  · exact bytes.trans (canonicalise_of_canonicalBytes canonical)

end Sys2Proof.Machine

/-! The obligations on DISPATCH, from what it does with an empty, a non-empty and a stale operand. -/

namespace Sys2Proof.Machine

/-- Settles O30: DISPATCH is the payload row of its first byte's top nibble, and a stale operand is refused as by every row. -/
theorem dispatchChoosesTheNextProtocol : Obligations.DispatchChoosesTheNextProtocol := by
  refine ⟨fun s hu hp => ?_, fun s b tail hu hp => ?_, fun s hu => ?_⟩
  · exact (execDispatch_eq_classifyAs s).trans (classifyAs_of_empty _ hu hp)
  · exact exec_dispatch_cons hu hp
  · exact exec_stale (.inl rfl) hu

/-- DISPATCH drops the low nibble and the later bytes (R163). -/
theorem exec_dispatch_append {s : State} {nib low : BitVec 4} {tail : Bytes} (hu : payloadUsable s = true)
    (hp : s.p = (nib ++ low : BitVec 8) :: tail) : exec .dispatch s = .next (returnNext (protocolOfNibble nib) s) := by
  rw [exec_dispatch_cons hu hp, BitVec.extractLsb'_append_eq_left]

/-- Settles O31: either state returns the protocol of the shared nibble, which is all that the result shows. -/
theorem dispatchDependsOnTheTopNibbleAlone : Obligations.DispatchDependsOnTheTopNibbleAlone :=
  fun _ _ _ _ _ _ _ hu hu' hp hp' => ⟨_, _, exec_dispatch_append hu hp, exec_dispatch_append hu' hp', rfl, rfl, rfl⟩

end Sys2Proof.Machine

/-! The obligations on errors: which operation reports which, when, and what a failure leaves unchanged. -/

namespace Sys2Proof.Machine

/-! ### Which statuses an operation reports, and when -/

/-- An effect reports a status of its operation (R180). -/
theorem Effect.err_mem {s : State} {op : Op} {f : State → State} (hf : Effect s op f) (u : State) :
    (f u).err ∈ statusesOf op := by
  cases hf with
  | decodeFails status => exact status
  | decodes | encodeFails | encodes | dispatchFails | dispatches => simp [statusesOf]

/-- An error that the operation does not list is never reported (R180). -/
theorem exec_err_ne {i : Instr} {s t : State} {e : ErrorKind} (h : exec i s = .next t)
    (unlisted : .error e ∉ statusesOf (operationOf i)) : t.err ≠ .error e := by
  obtain ⟨f, hf, rfl, -⟩ := exec_effect h
  exact fun herr => unlisted (herr ▸ hf.err_mem s)

/-- The two errors of DECODE by the tests of R121 to R123. -/
theorem exec_decode_error_iff {s t : State} (h : exec .decode s = .next t) :
    (t.err = .error .truncatedHeader ↔ s.ib.length < 8 ∨
      (versionOf (s.ib.headD 0) = 2 ∧ teidFlagOf (s.ib.headD 0) = true ∧ s.ib.length < 12)) ∧
    (t.err = .error .unsupportedVersion ↔ 8 ≤ s.ib.length ∧ versionOf (s.ib.headD 0) ≠ 2#3) := by
  have classes := exec_decode_classes s
  generalize s.ib.headD 0 = b0 at classes ⊢
  rcases classes with ⟨short, run⟩ | ⟨long, hv, run⟩ | ⟨long, cut, hv, ht, run⟩ | ⟨long, hv, ht, _, run⟩ |
    ⟨long, hv, ht, _, run⟩ <;> obtain rfl := Host.Outcome.next.inj (run.symm.trans h)
  · simp [short]
  · simp [hv, long]
  · simp [hv, ht, cut]
  · simp [hv, ht, long]
  · have : 8 ≤ s.ib.length := by omega
    simp [hv, ht, long, this]

/-- ENCODE fails exactly when the environment denies the prepend (R184). -/
theorem exec_encode_error_iff {s t : State} (h : exec .encode s = .next t) :
    t.err = .error .bufferAllocationFailure ↔ s.prependOk = false := by
  obtain ⟨f, hf, rfl, -⟩ := exec_effect h
  refine ⟨fun herr => (hf.prepend_denied herr).2, fun denied => ?_⟩
  change Effect s .encode f at hf
  cases hf with
  | encodeFails => rfl
  | encodes _ _ granted => cases denied.symm.trans granted

/-- DISPATCH fails exactly on an empty payload (R183). -/
theorem exec_dispatch_error_iff {s t : State} (h : exec .dispatch s = .next t) :
    t.err = .error .emptyPayload ↔ s.p = [] := by
  obtain ⟨f, hf, rfl, -⟩ := exec_effect h
  change Effect s .dispatch f at hf
  cases hf with
  | dispatchFails empty => simp [empty]
  | dispatches _ nonempty => simp [nonempty]

/-- Settles O39: each operation's own errors by their causes, and none that it does not list. -/
theorem errorsAndTheirCauses : Obligations.ErrorsAndTheirCauses := by
  refine ⟨fun s t h => ?_, fun s t h => ?_, fun s t h => ?_⟩
  · obtain ⟨truncated, unsupported⟩ := exec_decode_error_iff h
    exact ⟨truncated, unsupported, exec_err_ne h (by decide), exec_err_ne h (by decide)⟩
  · exact ⟨exec_encode_error_iff h, exec_err_ne h (by decide), exec_err_ne h (by decide), exec_err_ne h (by decide)⟩
  · exact ⟨exec_dispatch_error_iff h, exec_err_ne h (by decide), exec_err_ne h (by decide), exec_err_ne h (by decide)⟩

/-! ### What a failure leaves unchanged -/

/-- A failing effect writes the status, the validity and the model's own record alone (R188, R189). -/
theorem Effect.failure_frame {s u : State} {op : Op} {f : State → State} {e : ErrorKind} (hf : Effect s op f)
    (herr : (f u).err = .error e) :
    f u = { u with err := .error e, hdrValid := false, lastOp := (f u).lastOp, prependLog := (f u).prependLog } ∧
      result (f u) = some (.failed e) := by
  cases hf with
  | decodeFails | encodeFails | dispatchFails =>
    cases herr
    exact ⟨rfl, rfl⟩
  | decodes | encodes | dispatches => cases herr

/-- Settles O40: every instruction ends by an effect. -/
theorem failedOperationChangesNothing : Obligations.FailedOperationChangesNothing := by
  intro i s t e h herr
  obtain ⟨f, hf, rfl, -⟩ := exec_effect h
  exact hf.failure_frame herr

end Sys2Proof.Machine

/-! The obligation on the fields never set: where one that ENCODE reads is missing, the reads stop at a field. -/

namespace Sys2Proof.Machine

/-- The reads cannot get past a field that the caller never set (R214). -/
theorem readEncodeFields_unset {h : HeaderOperand} {t : Bool}
    (unset : h.version = none ∨ h.piggybackingFlag = none ∨ h.messageType = none ∨ h.messageLength = none ∨
      h.sequenceNumber = none ∨ (t = true ∧ h.teid = none)) :
    ∃ g, readEncodeFields h t = .error g := by
  cases hf : readEncodeFields h t with
  | error g => exact ⟨g, rfl⟩
  | ok f =>
    obtain ⟨version, piggybacking, type, length, teid, sequence⟩ := readEncodeFields_eq_ok.mp hf
    rcases unset with missing | missing | missing | missing | missing | ⟨rfl, missing⟩
    · cases missing.symm.trans version
    · cases missing.symm.trans piggybacking
    · cases missing.symm.trans type
    · cases missing.symm.trans length
    · cases missing.symm.trans sequence
    · cases missing.symm.trans teid

/-- Settles O21: `teidFlag` is read before the prepend; the other reads come after it and stop at a field never set. -/
theorem encodeRefusesFieldsNeverSet : Obligations.EncodeRefusesFieldsNeverSet := by
  refine fun s => ⟨execEncode_teidFlag_unset, fun f hflag hok unset => ?_⟩
  obtain ⟨g, hg⟩ := readEncodeFields_unset unset
  exact ⟨g, execEncode_field_unset hflag hok hg⟩

end Sys2Proof.Machine
